-- ==== Sys2Proof/Word.lean ====
section
/-! DEFINITION. The octet, the index types of the depot, and the one total table constructor the model uses. -/

namespace Sys2Proof

/-- One octet of a frame or of a table entry. -/
abbrev Byte := BitVec 8

/-- A stall, 0 to 47 (00, Stalls, dispensers and buses). -/
abbrev StallIx := Fin 48

/-- A roster index, 0 to 63. -/
abbrev BusIx := Fin 64

/-- A dispenser by its DISPENSER entry: entry `i` describes address `i + 1`. -/
abbrev DispIx := Fin 24

/-- A distribution panel, 0 to 5. -/
abbrev PanelIx := Fin 6

/-- A commitment window of the GRID set, 0 to 15. -/
abbrev WinIx := Fin 16

/-- The table whose entry `i` is `f i`. -/
def tab {n : Nat} {α : Type} (f : Fin n → α) : Vector α n := ⟨Array.mk (List.ofFn f), by simp⟩

@[simp] theorem tab_getElem {n : Nat} {α : Type} (f : Fin n → α) (i : Nat) (h : i < n) :
    (tab f)[i] = f ⟨i, h⟩ := by
  simp [tab, Vector.getElem_mk]

@[simp] theorem tab_get {n : Nat} {α : Type} (f : Fin n → α) (i : Fin n) : (tab f)[i] = f i := by
  simp [tab, Vector.getElem_mk]

/-- `x` held within `lo` and `hi`. -/
def clampInt (lo hi x : Int) : Int := max lo (min hi x)

end Sys2Proof
end

