-- ==== Sys2Proof/Syntax.lean ====
section
/-! DEFINITION. The commands: one constructor per row of spec/opcode_table.json, with the operands of its
occurrence (the fields of a request, the octets of a frame, the line or stall concerned). -/

namespace Sys2Proof

/-- Stall line A or B (02). -/
inductive StallLine where
  | a | b
  deriving DecidableEq, Repr

/-- The four serial lines (00, Lines and frames). -/
inductive Line where
  | a | b | meter | office
  deriving DecidableEq, Repr

/-- A stall line as one of the four lines. -/
def StallLine.line : StallLine → Line
  | .a => .a
  | .b => .b

/-- The other stall line. -/
def StallLine.other : StallLine → StallLine
  | .a => .b
  | .b => .a

/-- A frame less its start pattern, body length and CRC (12.2): the body length is the body's. -/
structure Frame where
  dest : Byte
  src  : Byte
  kind : Byte
  tag  : Byte
  body : List Byte
  deriving DecidableEq, Repr

/-- The commands the block takes. A frame command stands for the arrival of the whole frame (log 12); a request
command for the arrival of that request from the supervisor (log 13). -/
inductive Instr where
  -- resets
  | powerOnReset
  | hardwareReset (service : Bool)
  | softReset
  -- requests of the supervisor (12.6)
  | identify (tag : Byte)
  | statusRead (tag record index : Byte)
  | reset (tag : Byte)
  | heartbeat (tag : Byte) (token : BitVec 16)
  | tableSelect (tag set table : Byte)
  | tableWrite (tag set table index : Byte) (entry : List Byte)
  | tableRead (tag set copy table index : Byte)
  | discard (tag set : Byte)
  | commit (tag set : Byte) (crc : BitVec 32)
  | lock (tag : Byte)
  | setTime (tag : Byte) (second : BitVec 32)
  | setpoint (tag stall cap lend : Byte)
  | lineSelect (tag line : Byte)
  | lineTest (tag line : Byte)
  | censusStart (tag : Byte)
  | unknownRequest (tag kind : Byte) (body : List Byte)
  -- the office line
  | requestFrame (tag kind : Byte) (body : List Byte)
  | passthroughFrame (dest kind tag : Byte) (body : List Byte)
  | responseSent
  | forwardFrameSent
  | eventFrameSent
  | routineHoldExpiry
  -- the receivers
  | badFrame (line : Line) (resync : Bool)
  | gapError (line : Line)
  | breakDetected (line : Line)
  | breakEnd (line : Line)
  -- frames received on a stall line
  | telemetry (line : StallLine) (dest src tag : Byte) (body : List Byte)
  | censusReport (line : StallLine) (dest src tag : Byte) (body : List Byte)
  | checkReply (line : StallLine) (dest src tag : Byte) (body : List Byte)
  | uplinkFrame (line : StallLine) (dest src kind tag : Byte) (body : List Byte)
  -- frames received on the meter line; a DISPATCH's body after its action octet
  | sample (dest tag : Byte) (body : List Byte)
  | dispatchActivate (dest tag : Byte) (rest : List Byte)
  | dispatchRelease (dest tag : Byte) (rest : List Byte)
  -- the stall lines' transmitters, windows and timers
  | pollSent
  | censusSent
  | setSent
  | passthroughSent
  | fillSent (line : StallLine)
  | checkSent (line : StallLine)
  | testFrameSent
  | testFrameLooped (tag : Byte) (body : List Byte)
  | testFrameTimeout
  | pollWindowExpiry
  | censusWindowExpiry
  | idleTimeout (line : StallLine)
  | checkTimerExpiry (line : StallLine)
  | silenceTimeout (line : StallLine)
  -- the other timers
  | staleAgeReached (stall : StallIx)
  | unreachableAgeReached (stall : StallIx)
  | meterStalenessExpiry
  | minuteTick
  | allocationPeriodExpiry
  | pathSecondTick
  | activationMinute
  | activationLimit
  | heartbeatTimerExpiry
  -- one octet, and a frame a delivery table does not accept
  | octetReceived (line : Line) (octet : Byte)
  | frameDiscarded (line : Line)
  deriving DecidableEq, Repr

end Sys2Proof
end

