-- ==== Sys2Proof/Config.lean ====
section
/-! DEFINITION. The values the manual leaves open. A value left open is an opaque
constant: nothing can be proved of it. -/

namespace Sys2Proof.Config

/-- The two octets of STATUS READ number `occurrence` at field `field`, where the manual states no value or the
value does not fit the field (log 7). UNVERIFIED; a free value, safe. -/
opaque freeWord : Nat → Nat → BitVec 16

/-- What a CENSUS REPORT says of discharge when its flag octet is neither 0 nor 1 (log 8). UNVERIFIED; a free value,
safe. -/
opaque reportedFlag : BitVec 8 → Bool

end Sys2Proof.Config
end

