-- ==== Sys2Proof/Machine/Constants.lean ====
section
/-! DEFINITION. The numbers the manual fixes: octet values, addresses, kinds, result codes, queue capacities. -/

namespace Sys2Proof.Machine

open Sys2Proof

/-- SYNC1 (12.2). -/
def sync1 : Byte := 0xC5#8
/-- SYNC2 (12.2). -/
def sync2 : Byte := 0x3A#8
/-- The escape octet (R17, R182). -/
def escape : Byte := 0xB7#8

/-- The largest body (R18). -/
def maxBody : Nat := 240

def addrPart : Byte := 0x00#8
def addrMeter : Byte := 0xE0#8
def addrSupervisor : Byte := 0xF0#8
def addrBroadcast : Byte := 0xFF#8

/-- Queue capacities (R26, R28, R158, R161, R177). -/
def passMax : Nat := 8
def inboundMax : Nat := 4
def forwardMax : Nat := 32
def eventMax : Nat := 64
/-- Records of one event frame (R179). -/
def eventFrameMax : Nat := 8
/-- Frames other than a POLL between two POLLs (R22). -/
def betweenMax : Nat := 4

/-- Vendor code, part code and silicon revision letter (R163). -/
def vendorCode : Nat := 0x5A4B
def partCode : Nat := 0x0D48
def revision : Byte := 0x41#8

/-- Frame kinds (12.3). -/
def kPoll : Byte := 0x10#8
def kTelemetry : Byte := 0x11#8
def kSet : Byte := 0x12#8
def kCensus : Byte := 0x13#8
def kCensusReport : Byte := 0x14#8
def kCheck : Byte := 0x15#8
def kCheckReply : Byte := 0x16#8
def kFill : Byte := 0x17#8
def kTest : Byte := 0x18#8
def kSample : Byte := 0x20#8
def kDispatch : Byte := 0x21#8
def kIdentify : Byte := 0x40#8
def kStatusRead : Byte := 0x41#8
def kReset : Byte := 0x42#8
def kHeartbeat : Byte := 0x43#8
def kTableSelect : Byte := 0x44#8
def kTableWrite : Byte := 0x45#8
def kTableRead : Byte := 0x46#8
def kDiscard : Byte := 0x47#8
def kCommit : Byte := 0x48#8
def kLock : Byte := 0x49#8
def kSetTime : Byte := 0x4A#8
def kSetpoint : Byte := 0x4B#8
def kLineSelect : Byte := 0x4C#8
def kLineTest : Byte := 0x4D#8
def kCensusStart : Byte := 0x4E#8
def kEvent : Byte := 0x60#8

/-- Result codes (12.1). -/
def rDone : Byte := 0#8
def rClamped : Byte := 1#8
def rBusy : Byte := 2#8
def rLocked : Byte := 3#8
def rInvalid : Byte := 4#8
def rChecksum : Byte := 5#8
def rRange : Byte := 6#8
def rUnknown : Byte := 7#8
def rNotReady : Byte := 8#8
def rNotSupervised : Byte := 9#8
def rNotGood : Byte := 10#8

end Sys2Proof.Machine
end

