-- ==== Sys2Proof/Machine/Types.lean ====
section
/-! DEFINITION. The records the state is made of, block by block. -/

namespace Sys2Proof.Machine

open Sys2Proof

/-! ## Table sets (01 section 1.1, 10 section 10.4, 12.8) -/

/-- SITE entry (R1). -/
structure Site where
  feeder : Nat
  keyA   : Nat
  keyB   : Nat
  deriving DecidableEq, Repr

/-- PANEL entry (R1). -/
structure Panel where
  inService : Bool
  limit     : Nat
  deriving DecidableEq, Repr

/-- DISPENSER entry (R1); a panel of `none` is NONE. -/
structure Dispenser where
  listed    : Bool
  panel     : Option PanelIx
  ports     : Nat
  cabinet   : Nat
  port0     : Nat
  port1     : Nat
  discharge : Bool
  deriving DecidableEq, Repr

structure PlantSet where
  site       : Site
  panels     : Vector Panel 6
  dispensers : Vector Dispenser 24
  deriving DecidableEq, Repr

/-- BUS entry (R169). The two flags keep the octet written, since an unused entry stores its fields as written. -/
structure BusEntry where
  fleet     : Nat
  capacity  : Nat
  floor     : Nat
  accept    : Nat
  discharge : Nat
  enrolled  : Byte
  enabled   : Byte
  deriving DecidableEq, Repr

/-- DEPARTURE entry (R169), with the flag octet as written. -/
structure DepEntry where
  fleet   : Nat
  minute  : Nat
  route   : Nat
  lead    : Nat
  power   : Nat
  enabled : Byte
  deriving DecidableEq, Repr

/-- WINDOW entry (R169, R138). -/
structure WindowEntry where
  enabled     : Bool
  start       : Nat
  stop        : Nat
  power       : Nat
  maxMinutes  : Nat
  freqTrigger : Bool
  deriving DecidableEq, Repr

/-- FREQUENCY entry (R169). -/
structure FreqEntry where
  trip         : Nat
  restore      : Nat
  tripCount    : Nat
  restoreCount : Nat
  deriving DecidableEq, Repr

structure GridSet where
  windows  : Vector WindowEntry 16
  freq     : FreqEntry
  ceilings : Vector Nat 48
  deriving DecidableEq, Repr

/-- The class of an event record (R175). -/
inductive EventClass where
  | routine | urgent
  deriving DecidableEq, Repr

/-- PARAMETERS entry (R170). -/
structure Params where
  period          : Nat
  urgentHorizon   : Nat
  protectHorizon  : Nat
  chargeTo        : Nat
  guestCeiling    : Nat
  releaseWindow   : Nat
  rampStep        : Nat
  storageEnable   : Bool
  shaveThreshold  : Nat
  heartbeatPeriod : Nat
  batchThreshold  : Nat
  holdTime        : Nat
  dayRoll         : Nat
  fallbackLoad    : Nat
  autoSwitch      : Bool
  deriving DecidableEq, Repr

structure PolicySet where
  params  : Params
  classes : Vector EventClass 64
  deriving DecidableEq, Repr

/-- One table set as the Table Store holds it (10.4, R168). -/
structure TableSet (α : Type) where
  live       : α
  liveEmpty  : Bool
  generation : Nat
  draft      : α
  pending    : Bool
  selected   : Nat
  cursor     : Nat
  deriving DecidableEq, Repr

/-! ## Receivers and lines (02) -/

/-- Receiver states (R17, R19). -/
inductive RxState where
  | hunt | sync1Seen | frame | brk
  deriving DecidableEq, Repr

/-- One line's receiver: its state, the decoded octets of the frame being assembled, whether an escape octet is
held, whether the input stands at space, and whether a bad frame has come since the last valid one (R18). -/
structure Receiver where
  state    : RxState
  buf      : List Byte
  esc      : Bool
  atSpace  : Bool
  badSince : Bool
  deriving DecidableEq, Repr

/-- Line health (R30, R31, R35). -/
inductive Health where
  | good | failed | test
  deriving DecidableEq, Repr

/-- A transmission in progress on a stall line, with what it carries. A POLL keeps the poll position before it,
which R33 restores; a CENSUS says whether its probe still stands (R12). -/
inductive StallTx where
  | poll (addr : DispIx) (before : Option DispIx)
  | census (addr : DispIx) (stands : Bool)
  | set (stall : StallIx) (charge cond dis : Nat)
  | pass (f : Frame)
  | fill (count : Nat)
  | check (addr : DispIx)
  | test (tag : Nat)
  deriving DecidableEq, Repr

/-- One stall line (02, the first table). -/
structure StallLineState where
  rx         : Receiver
  health     : Health
  qual       : Nat
  silence    : Nat
  unanswered : Nat
  rotation   : Option DispIx
  checkOut   : Option DispIx
  checkDue   : Bool
  errors     : Nat
  tx         : Option StallTx
  deriving DecidableEq, Repr

/-- An open response window (R23). -/
inductive RespWindow where
  | poll (addr : DispIx) (before : Option DispIx)
  | census (addr : DispIx)
  deriving DecidableEq, Repr

/-- An entry of the setpoint queue (R26). -/
structure SetEntry where
  stall    : StallIx
  reserve  : Bool
  inFlight : Bool
  deriving DecidableEq, Repr

/-- A LINE TEST in progress (R35). -/
structure LineTest where
  line        : StallLine
  savedHealth : Health
  savedQual   : Nat
  number      : Nat
  intact      : Nat
  looped      : Bool
  deriving DecidableEq, Repr

/-! ## Plant Map and census (01) -/

inductive Presence where
  | unlisted | unprobed | present | absent
  deriving DecidableEq, Repr

/-- A CENSUS REPORT's values after the clamps of R9. -/
structure Report where
  ports     : Nat
  cabinet   : Nat
  port0     : Nat
  port1     : Nat
  discharge : Bool
  deriving DecidableEq, Repr

/-- The stored part of a presence record; the effective ratings are `effRatings` (R3). -/
structure PresenceRec where
  presence : Presence
  miss     : Nat
  report   : Option Report
  deriving DecidableEq, Repr

/-- The census (R7 to R11). RUNNING is `running`. -/
structure Census where
  running      : Bool
  probe        : Option DispIx
  outstanding  : Bool
  unlistedSeen : Vector Bool 24
  deriving DecidableEq, Repr

/-! ## Stall and bus records (03, 07, 08) -/

inductive Occupancy where
  | vacant | unidentified | session | guest | conflict | faulted
  deriving DecidableEq, Repr

inductive Freshness where
  | none | fresh | stale | unreachable
  deriving DecidableEq, Repr

inductive Controller where
  | allocator | reserve | storage
  deriving DecidableEq, Repr

/-- Discharge owner; `Option.none` is the owner none (08). -/
inductive Owner where
  | reserve | storage
  deriving DecidableEq, Repr

/-- Charge, conditioning and discharge of a stall, in kW (R112). -/
structure Setpoint where
  charge : Nat
  cond   : Nat
  dis    : Nat
  deriving DecidableEq, Repr

/-- A stall record: the Session Table's fields (3.1), the Readiness Tracker's protected flag (R82), the Allocator's
grants (R91), the Setpoint Path's fields (07) and the Discharge Coordinator's (08). -/
structure Stall where
  inService  : Bool
  occ        : Occupancy
  fresh      : Freshness
  age        : Nat
  bus        : Option BusIx
  fleetNo    : Option Nat
  plugged    : Bool
  power      : Int
  fault      : Nat
  baseline   : Option Int
  residue    : Int
  partner    : Option StallIx
  prot       : Bool
  grant      : Nat
  condGrant  : Nat
  cap        : Option Nat
  lend       : Bool
  controller : Controller
  sp         : Setpoint
  handed     : Nat
  lastPosted : Nat
  owner      : Option Owner
  discharge  : Nat
  deriving DecidableEq, Repr

/-- The dynamic part of a bus record (3.2, R126). `energy = none` is UNKNOWN. -/
structure Bus where
  energy   : Option Nat
  carried  : Bool
  stall    : Option StallIx
  lendable : Nat
  deriving DecidableEq, Repr

/-- Why an association ended (R47). -/
inductive EndCause where
  | unplug | fault | identity | displaced | outOfService | roster
  deriving DecidableEq, Repr

/-! ## Site Monitor (04) -/

structure Sample where
  importKw : Int
  freq     : Nat
  seq      : Nat
  deriving DecidableEq, Repr

structure SiteMonitor where
  rx         : Receiver
  errors     : Nat
  fresh      : Bool
  sample     : Option Sample
  fleetPower : Int
  lastLoad   : Option Nat
  low        : Bool
  trip       : Nat
  restore    : Nat
  deriving DecidableEq, Repr

/-! ## Departures (05) -/

inductive Readiness where
  | disabled | scheduled | charging | ready | conditioning
  | departed | departedShort | notDeparted | absent | cancelled
  deriving DecidableEq, Repr

structure Departure where
  fleet   : Nat
  minute  : Nat
  route   : Nat
  lead    : Nat
  power   : Nat
  enabled : Bool
  state   : Readiness
  short   : Bool
  atRisk  : Bool
  deriving DecidableEq, Repr

/-! ## Allocator (06) -/

inductive ReserveMod where
  | none | active | recovery
  deriving DecidableEq, Repr

/-- The allocation record (R110) but for the round count and the ramp ceiling, which it shares with the Allocator.
`unused = none` is the figure the manual does not state (a round under an ACTIVE reserve runs no pass). -/
structure AllocRecord where
  minute      : Option Nat
  feeder      : Nat
  ceiling     : Nat
  load        : Nat
  cond        : Nat
  hard        : Nat
  soft        : Nat
  softPlain   : Nat
  modif       : ReserveMod
  ramp        : Nat
  chargeSum   : Nat
  handedOut   : Nat
  unused      : Option Nat
  deriving DecidableEq, Repr

structure Allocator where
  remaining  : Nat
  roundCount : Nat
  ramp       : Nat
  record     : AllocRecord
  deriving DecidableEq, Repr

/-! ## Storage and reserve (08, 09) -/

inductive StorageState where
  | idle | shaving | inhibited
  deriving DecidableEq, Repr

structure Storage where
  state     : StorageState
  target    : Option Nat
  placed    : Nat
  shortfall : Nat
  deriving DecidableEq, Repr

inductive ReserveState where
  | disarmed | armed | armedShort | active | recovery
  deriving DecidableEq, Repr

inductive Trigger where
  | dispatch | frequency
  deriving DecidableEq, Repr

inductive ActEnd where
  | release | limit | windowEnd | restore
  deriving DecidableEq, Repr

/-- The activation record (9.4). `delivered = none` until the first progress report. -/
structure Activation where
  trigger   : Trigger
  requestId : Option Nat
  target    : Nat
  window    : WindowEntry
  windowIx  : WinIx
  baseline  : Int
  start     : Nat
  elapsed   : Nat
  frozen    : Nat
  curtailed : Nat
  placed    : Nat
  shortfall : Nat
  delivered : Option Int
  tripSeen  : Bool
  ended     : Option ActEnd
  deriving DecidableEq, Repr

structure ReserveCtl where
  state  : ReserveState
  window : Option WinIx
  act    : Option Activation
  held   : List (StallIx × Nat)
  deriving DecidableEq, Repr

/-! ## Events (11) -/

/-- The event kinds in the order of their codes, START being code 1 (R176). -/
inductive EventKind where
  | start | committed | supervisorLost | supervisorRestored | officeOverrun | forwardDropped
  | frameError | passthroughDropped | lineFailed | lineRestored | lineSwitch
  | dispenserMismatch | dispenserAbsent | dispenserUnlisted | censusDone
  | plug | unplug | busMoved | busUnknown | busConflict | counterJump | stallFault | stallFaultCleared
  | stallStale | stallUnreachable | stallFresh | setpointClamped
  | meterStale | meterRestored | meterGap | frequencyTrip | frequencyRestored
  | ready | conditioningStart | atRisk | atRiskCleared | departed | departedShort | notDeparted | absent
  | departureRemoved | shaveStart | shaveEnd | storageLimit
  | reserveArmed | reserveShort | reserveDisarmed | reserveActive | reserveShortfall | reserveRetarget
  | reserveProgress | reserveEnd | dispatchRefused
  deriving DecidableEq, Repr

/-- The subject of a record: its kind and index (R175). A dispenser's index is its address. -/
inductive Subject where
  | stall (s : StallIx)
  | departure (position : Nat)
  | dispenser (d : DispIx)
  | line (l : Line)
  | reserve (window : Nat)
  | tableSet (n : Nat)
  | part
  deriving DecidableEq, Repr

structure EventRec where
  kind    : EventKind
  cls     : EventClass
  subject : Subject
  param   : Int
  time    : Option Nat
  deriving DecidableEq, Repr

/-- A record in the queue, with its in-flight mark (R179). -/
structure QueuedRec where
  record     : EventRec
  inFlight : Bool
  deriving DecidableEq, Repr

structure EventQueue where
  queue    : List QueuedRec
  overflow : Bool
  hold     : Option Nat
  released : Bool
  deriving DecidableEq, Repr

/-! ## Office Port (10) -/

inductive ResetCause where
  | power | hardware | hardwareService | soft
  deriving DecidableEq, Repr

/-- A supervisor request, read from its kind and body (12.6). A TABLE WRITE's entry is judged when it is taken. -/
inductive Request where
  | identify
  | statusRead (record index : Byte)
  | reset
  | heartbeat (token : BitVec 16)
  | tableSelect (set table : Byte)
  | tableWrite (set table index : Byte) (entry : List Byte)
  | tableRead (set copy table index : Byte)
  | discard (set : Byte)
  | commit (set : Byte) (crc : BitVec 32)
  | lock
  | setTime (second : BitVec 32)
  | setpoint (stall cap lend : Byte)
  | lineSelect (line : Byte)
  | lineTest (line : Byte)
  | censusStart
  | malformed (kind : Byte)
  | unknown (kind : Byte)
  deriving DecidableEq, Repr

/-- A request with its tag, as it waits in the inbound queue. -/
structure TaggedReq where
  tag : Byte
  req : Request
  deriving DecidableEq, Repr

/-- What the office transmitter is sending (R160). -/
inductive OfficeTx where
  | response (f : Frame)
  | forward (f : Frame)
  | event (overflow : Bool) (recs : List EventRec)
  deriving DecidableEq, Repr

structure Office where
  rx        : Receiver
  errors    : Nat
  inbound   : List TaggedReq
  inHand    : Option TaggedReq
  slot      : Option Frame
  forward   : List Frame
  dropMark  : Bool
  dropCount : Nat
  tx        : Option OfficeTx
  deriving DecidableEq, Repr

/-- The Supervision Monitor (10.3). `expectB` says that key B is expected; `timer` is the heartbeat timer's seconds
remaining, meaningful while `supervised`. -/
structure Supervision where
  supervised : Bool
  expectB    : Bool
  correct    : Nat
  timer      : Nat
  deriving DecidableEq, Repr

end Sys2Proof.Machine
end

