-- ==== Sys2Proof/Machine/Defaults.lean ====
section
/-! DEFINITION. The contents of the table sets after power-on (R1, R170, R174, R176) and of the records at reset. -/

namespace Sys2Proof.Machine

open Sys2Proof

def Site.zero : Site := ⟨0, 0, 0⟩
def Panel.zero : Panel := ⟨false, 0⟩
/-- An empty DISPENSER entry: every field zero, every flag clear, the panel field 0 (R1). -/
def Dispenser.zero : Dispenser := ⟨false, some 0, 0, 0, 0, 0, false⟩
def PlantSet.empty : PlantSet := ⟨.zero, Vector.replicate 6 .zero, Vector.replicate 24 .zero⟩

def BusEntry.zero : BusEntry := ⟨0, 0, 0, 0, 0, 0#8, 0#8⟩
def DepEntry.zero : DepEntry := ⟨0, 0, 0, 0, 0, 0#8⟩
def WindowEntry.zero : WindowEntry := ⟨false, 0, 0, 0, 0, false⟩
def FreqEntry.zero : FreqEntry := ⟨0, 0, 0, 0⟩
def GridSet.empty : GridSet := ⟨Vector.replicate 16 .zero, .zero, Vector.replicate 48 0⟩

/-- The defaults of PARAMETERS (R170). -/
def Params.defaults : Params where
  period := 2
  urgentHorizon := 60
  protectHorizon := 180
  chargeTo := 900
  guestCeiling := 20
  releaseWindow := 45
  rampStep := 100
  storageEnable := false
  shaveThreshold := 20
  heartbeatPeriod := 30
  batchThreshold := 8
  holdTime := 10
  dayRoll := 1080
  fallbackLoad := 200
  autoSwitch := true

/-- The default class of a code (R176): the kinds always urgent and the kinds whose default is URGENT. A code that
names no kind holds ROUTINE (DESIGN CHOICE: the manual gives it none, log 15). -/
def defaultClass (code : Nat) : EventClass :=
  if code ∈ [1, 3, 9, 13, 20, 22, 28, 31, 39, 48, 49, 52] then .urgent else .routine

def PolicySet.defaults : PolicySet := ⟨.defaults, tab fun i => defaultClass i.val⟩

/-- An empty set: draft and live empty, generation 0, the draft OPEN at its first table (R174). -/
def TableSet.init {α : Type} (content : α) (liveEmpty : Bool) : TableSet α :=
  ⟨content, liveEmpty, 0, content, false, 0, 0⟩

/-- A receiver after reset: HUNT, or BREAK while the input is at space (R36, R66, R174). -/
def Receiver.afterReset (atSpace : Bool) : Receiver :=
  ⟨if atSpace then .brk else .hunt, [], false, atSpace, false⟩

def PresenceRec.unlisted : PresenceRec := ⟨.unlisted, 0, none⟩

def Census.idle : Census := ⟨false, none, false, Vector.replicate 24 false⟩

def Setpoint.zero : Setpoint := ⟨0, 0, 0⟩

/-- A stall record after a power-on or hardware reset (R15, R54, R88, R111, R124, R137). -/
def Stall.afterReset : Stall where
  inService := false
  occ := .vacant
  fresh := .none
  age := 0
  bus := none
  fleetNo := none
  plugged := false
  power := 0
  fault := 0
  baseline := none
  residue := 0
  partner := none
  prot := false
  grant := 0
  condGrant := 0
  cap := none
  lend := true
  controller := .allocator
  sp := .zero
  handed := 0
  lastPosted := 0
  owner := none
  discharge := 0

/-- A bus record that knows nothing (R52, R54). -/
def Bus.unknown : Bus := ⟨none, false, none, 0⟩

/-- A stall line after a power-on or hardware reset (R36). -/
def StallLineState.afterReset (atSpace : Bool) : StallLineState where
  rx := .afterReset atSpace
  health := .failed
  qual := 0
  silence := 0
  unanswered := 0
  rotation := none
  checkOut := none
  checkDue := false
  errors := 0
  tx := none

def SiteMonitor.afterReset (atSpace : Bool) : SiteMonitor where
  rx := .afterReset atSpace
  errors := 0
  fresh := false
  sample := none
  fleetPower := 0
  lastLoad := none
  low := false
  trip := 0
  restore := 0

def AllocRecord.zero : AllocRecord where
  minute := some 0
  feeder := 0
  ceiling := 0
  load := 0
  cond := 0
  hard := 0
  soft := 0
  softPlain := 0
  modif := .none
  ramp := 0
  chargeSum := 0
  handedOut := 0
  unused := some 0

def Allocator.afterReset (period : Nat) : Allocator := ⟨period, 0, 0, .zero⟩

def Storage.afterReset : Storage := ⟨.inhibited, none, 0, 0⟩

def ReserveCtl.afterReset : ReserveCtl := ⟨.disarmed, none, none, []⟩

def Office.afterReset (atSpace : Bool) : Office where
  rx := .afterReset atSpace
  errors := 0
  inbound := []
  inHand := none
  slot := none
  forward := []
  dropMark := false
  dropCount := 0
  tx := none

def Supervision.afterReset : Supervision := ⟨false, false, 0, 0⟩

/-- The code carried by START for a reset cause (R176). -/
def ResetCause.code : ResetCause → Nat
  | .power => 0
  | .hardware => 1
  | .hardwareService => 2
  | .soft => 3

/-- The Event Queue after a reset: one START record, URGENT (R181). -/
def EventQueue.afterReset (cause : ResetCause) (clock : Option Nat) : EventQueue where
  queue := [⟨⟨.start, .urgent, .part, cause.code, clock⟩, false⟩]
  overflow := false
  hold := none
  released := false

end Sys2Proof.Machine
end

