-- ==== Sys2Proof/Machine/State.lean ====
section
/-! DEFINITION. The state of the DX48: every piece of state the manual gives the part, and the queue of waiting
commands. Plain data. -/

namespace Sys2Proof.Machine

open Sys2Proof

/-- The whole part. INVENTORY.md lists each field with its rule and reset value. -/
@[ext]
structure State where
  -- Table Store (10)
  plant      : TableSet PlantSet
  fleet      : TableSet (Vector BusEntry 64)
  schedule   : TableSet (Vector DepEntry 96)
  grid       : TableSet GridSet
  policy     : TableSet PolicySet
  lock       : Bool
  -- device state (R162), reset cause (R163), supervision (10.3)
  configured : Bool
  resetCause : ResetCause
  superv     : Supervision
  -- Office Port (10)
  office     : Office
  -- Stall Line Controller (02)
  lineA      : StallLineState
  lineB      : StallLineState
  active     : StallLine
  setQ       : List SetEntry
  passQ      : List Frame
  pollPos    : Option DispIx
  between    : Nat
  probed     : Bool
  window     : Option RespWindow
  test       : Option LineTest
  -- Plant Map and census (01)
  presence   : Vector PresenceRec 24
  census     : Census
  -- Session Table, and the stall and bus fields of the other blocks (03, 05 to 08)
  stalls     : Vector Stall 48
  buses      : Vector Bus 64
  -- Site Monitor (04)
  site       : SiteMonitor
  -- Readiness Tracker (05)
  clock      : Option Nat
  deps       : List Departure
  -- Allocator (06), Setpoint Path (07), Discharge Coordinator (08), Reserve Controller (09), Event Queue (11)
  alloc      : Allocator
  pathSecond : Nat
  storage    : Storage
  reserve    : ReserveCtl
  events     : EventQueue
  -- the model's own: answers with open figures given so far, and the commands waiting (INVENTORY.md)
  freeCount  : Nat
  pending    : List Instr
  deriving DecidableEq, Repr

/-- No command faults: the manual turns every ill case into a result code, an error count, an event or no effect. -/
inductive Fault : Type
  deriving DecidableEq, Repr

/-- Why a command has no meaning here. -/
inductive Refusal where
  /-- Raised by `exec` for a command whose meaning is not written yet; safe. No arm answers with it. -/
  | notModelled (mnemonic : String)
  deriving DecidableEq, Repr

/-- The part after a power-on reset (R15, R36, R54, R66, R88, R111, R124, R137, R156, R174, R181). The line inputs
stand at mark (DESIGN CHOICE, log 5). The START record waits; the office transmitter takes it up in the first step
(log 3). -/
def State.reset : State where
  plant := .init .empty true
  fleet := .init (Vector.replicate 64 .zero) true
  schedule := .init (Vector.replicate 96 .zero) true
  grid := .init .empty true
  policy := .init .defaults false
  lock := false
  configured := false
  resetCause := .power
  superv := .afterReset
  office := .afterReset false
  lineA := .afterReset false
  lineB := .afterReset false
  active := .a
  setQ := []
  passQ := []
  pollPos := none
  between := 0
  probed := false
  window := none
  test := none
  presence := Vector.replicate 24 .unlisted
  census := .idle
  stalls := Vector.replicate 48 .afterReset
  buses := Vector.replicate 64 .unknown
  site := .afterReset false
  clock := none
  deps := []
  alloc := .afterReset Params.defaults.period
  pathSecond := 0
  storage := .afterReset
  reserve := .afterReset
  events := .afterReset .power none
  freeCount := 0
  pending := []

end Sys2Proof.Machine
end

