-- ==== Sys2Proof/Machine/Ops.lean ====
section
/-! DEFINITION. Reading and writing the state's tables by index, and the numbering of stalls and dispensers. -/

namespace Sys2Proof.Machine

open Sys2Proof

def allStalls : List StallIx := List.finRange 48
def allBuses : List BusIx := List.finRange 64
def allDisps : List DispIx := List.finRange 24

/-- Stall s belongs to dispenser address ⌊s/2⌋ + 1 (00). -/
def dispOf (i : StallIx) : DispIx := ⟨i.val / 2, by omega⟩

/-- Stall s is port s mod 2 of its dispenser (00). -/
def portOf (i : StallIx) : Nat := i.val % 2

/-- The stall at a port of a dispenser. -/
def stallAt (d : DispIx) (port : Fin 2) : StallIx := ⟨2 * d.val + port.val, by omega⟩

/-- The two stalls of a dispenser. -/
def stallsOf (d : DispIx) : List StallIx := [stallAt d 0, stallAt d 1]

/-- A dispenser's station address, 1 to 24. -/
def addrOf (d : DispIx) : Byte := BitVec.ofNat 8 (d.val + 1)

/-- The dispenser with a station address, if it is 1 to 24. -/
def dispAt (a : Byte) : Option DispIx :=
  if h : 1 ≤ a.toNat ∧ a.toNat ≤ 24 then some ⟨a.toNat - 1, by omega⟩ else none

def StallLine.index : StallLine → Nat
  | .a => 0
  | .b => 1

/-- A line's subject index: A 0, B 1, meter 2, office 3 (R175). -/
def Line.index : Line → Nat
  | .a => 0
  | .b => 1
  | .meter => 2
  | .office => 3

def State.stall (s : State) (i : StallIx) : Stall := s.stalls[i.val]
def State.setStall (s : State) (i : StallIx) (x : Stall) : State := { s with stalls := s.stalls.set i.val x }
def State.modStall (s : State) (i : StallIx) (f : Stall → Stall) : State := s.setStall i (f (s.stall i))

def State.bus (s : State) (b : BusIx) : Bus := s.buses[b.val]
def State.setBus (s : State) (b : BusIx) (x : Bus) : State := { s with buses := s.buses.set b.val x }
def State.modBus (s : State) (b : BusIx) (f : Bus → Bus) : State := s.setBus b (f (s.bus b))

def State.pres (s : State) (d : DispIx) : PresenceRec := s.presence[d.val]
def State.modPres (s : State) (d : DispIx) (f : PresenceRec → PresenceRec) : State :=
  { s with presence := s.presence.set d.val (f (s.pres d)) }

def State.line (s : State) : StallLine → StallLineState
  | .a => s.lineA
  | .b => s.lineB

def State.setLine (s : State) (l : StallLine) (x : StallLineState) : State :=
  match l with
  | .a => { s with lineA := x }
  | .b => { s with lineB := x }

def State.modLine (s : State) (l : StallLine) (f : StallLineState → StallLineState) : State :=
  s.setLine l (f (s.line l))

/-- The line that holds the STANDBY role (R32). -/
def State.standby (s : State) : StallLine := s.active.other

/-- The live PARAMETERS of POLICY. -/
def State.params (s : State) : Params := s.policy.live.params

/-- The live DISPENSER entry of an address. -/
def State.dispEntry (s : State) (d : DispIx) : Dispenser := s.plant.live.dispensers[d.val]

/-- The live BUS entry of a roster index. -/
def State.busEntry (s : State) (b : BusIx) : BusEntry := s.fleet.live[b.val]

/-- A sum over all 48 stalls. -/
def State.sumStalls (s : State) (f : Stall → Nat) : Nat := (allStalls.map fun i => f (s.stall i)).sum

/-- `f` applied at each of a list, in its order. -/
def State.each {α : Type} (s : State) (is : List α) (f : State → α → State) : State := is.foldl f s

/-- `x` enters an ascending list before the first element whose key is not below its own. -/
def insertByKey {α : Type} (key : α → Int) (x : α) : List α → List α
  | [] => [x]
  | y :: ys => if key x ≤ key y then x :: y :: ys else y :: insertByKey key x ys

/-- Ascending order by a numeric key; elements with equal keys keep their order. -/
def sortByKey {α : Type} (key : α → Int) (xs : List α) : List α := xs.foldr (insertByKey key) []

end Sys2Proof.Machine
end

