-- ==== Sys2Proof/Machine/Events.lean ====
section
/-! DEFINITION. The Event Queue (11): raising a record, its entry into the queue, the routine hold, event frames. -/

namespace Sys2Proof.Machine

open Sys2Proof

/-- The code of a kind (R176). -/
def EventKind.code : EventKind → Nat
  | .start => 1
  | .committed => 2
  | .supervisorLost => 3
  | .supervisorRestored => 4
  | .officeOverrun => 5
  | .forwardDropped => 6
  | .frameError => 7
  | .passthroughDropped => 8
  | .lineFailed => 9
  | .lineRestored => 10
  | .lineSwitch => 11
  | .dispenserMismatch => 12
  | .dispenserAbsent => 13
  | .dispenserUnlisted => 14
  | .censusDone => 15
  | .plug => 16
  | .unplug => 17
  | .busMoved => 18
  | .busUnknown => 19
  | .busConflict => 20
  | .counterJump => 21
  | .stallFault => 22
  | .stallFaultCleared => 23
  | .stallStale => 24
  | .stallUnreachable => 25
  | .stallFresh => 26
  | .setpointClamped => 27
  | .meterStale => 28
  | .meterRestored => 29
  | .meterGap => 30
  | .frequencyTrip => 31
  | .frequencyRestored => 32
  | .ready => 33
  | .conditioningStart => 34
  | .atRisk => 35
  | .atRiskCleared => 36
  | .departed => 37
  | .departedShort => 38
  | .notDeparted => 39
  | .absent => 40
  | .departureRemoved => 41
  | .shaveStart => 42
  | .shaveEnd => 43
  | .storageLimit => 44
  | .reserveArmed => 45
  | .reserveShort => 46
  | .reserveDisarmed => 47
  | .reserveActive => 48
  | .reserveShortfall => 49
  | .reserveRetarget => 50
  | .reserveProgress => 51
  | .reserveEnd => 52
  | .dispatchRefused => 53

/-- The kinds that are URGENT in every case (R175). -/
def EventKind.alwaysUrgent : EventKind → Bool
  | .reserveActive | .reserveShortfall | .reserveEnd | .supervisorLost | .start => true
  | _ => false

/-- A parameter as it is carried: held within −32768 to 32767; a COMMITTED generation as its 16 bits (R175). -/
def carriedParam (k : EventKind) (p : Int) : Int :=
  if k = .committed then (BitVec.ofInt 16 p).toInt else clampInt (-32768) 32767 p

/-- The class of a record, settled when it is raised (R175). -/
def State.classOf (s : State) (k : EventKind) (p : Int) : EventClass :=
  if k.alwaysUrgent then .urgent
  else if k = .lineSwitch ∧ p = 0 then .urgent
  else s.policy.live.classes.toList.getD k.code .urgent

def QueuedRec.waitingOf (c : EventClass) (q : QueuedRec) : Bool := q.record.cls == c && !q.inFlight

/-- The number of waiting routine records, the routine hold (R178). -/
def EventQueue.holdCount (e : EventQueue) : Nat := e.queue.countP (·.waitingOf .routine)

/-- The routine batch threshold test (R178). -/
def EventQueue.testBatch (e : EventQueue) (threshold : Nat) : EventQueue :=
  if threshold ≤ e.holdCount then { e with released := true } else e

/-- The routine hold is empty: the timer stops and the release is held (R178). -/
def EventQueue.stopIfEmpty (e : EventQueue) : EventQueue :=
  if e.holdCount = 0 then { e with hold := none, released := false } else e

/-- A record joins the tail (R177), and a routine one starts the hold timer and tests the threshold (R178). -/
def EventQueue.join (e : EventQueue) (r : EventRec) (holdTime threshold : Nat) : EventQueue :=
  let e1 := { e with queue := e.queue ++ [⟨r, false⟩] }
  match r.cls with
  | .urgent => e1
  | .routine =>
    ({ e1 with hold := if e.holdCount = 0 then some holdTime else e.hold }).testBatch threshold

/-- The queue without its oldest routine record, and that record. -/
def removeOldestRoutine : List QueuedRec → Option (QueuedRec × List QueuedRec)
  | [] => none
  | q :: qs =>
    if q.record.cls = .routine then some (q, qs)
    else (removeOldestRoutine qs).map fun p => (p.1, q :: p.2)

/-- A record is offered to the queue (R177). -/
def EventQueue.offer (e : EventQueue) (r : EventRec) (holdTime threshold : Nat) : EventQueue :=
  if e.queue.length < eventMax then e.join r holdTime threshold
  else
    match r.cls with
    | .routine => { e with overflow := true }
    | .urgent =>
      match removeOldestRoutine e.queue with
      | none => { e with overflow := true }
      | some (gone, rest) =>
        let e1 := { e with queue := rest ++ [⟨r, false⟩], overflow := true }
        if gone.inFlight then e1 else e1.stopIfEmpty

/-- A block raises a record (R175, R177). -/
def State.raise (s : State) (k : EventKind) (subject : Subject) (p : Int) : State :=
  let r : EventRec := ⟨k, s.classOf k p, subject, carriedParam k p, s.clock⟩
  { s with events := s.events.offer r s.params.holdTime s.params.batchThreshold }

/-! ## Event frames (R179, R180) -/

/-- Takes up to `n` records that satisfy `p`, in queue order, into the in-flight set. -/
def takeRecs (p : QueuedRec → Bool) : Nat → List QueuedRec → List EventRec × List QueuedRec
  | _, [] => ([], [])
  | 0, qs => ([], qs)
  | n + 1, q :: qs =>
    if p q then
      let r := takeRecs p n qs
      (q.record :: r.1, { q with inFlight := true } :: r.2)
    else
      let r := takeRecs p (n + 1) qs
      (r.1, q :: r.2)

/-- An event frame is composed and starts: the waiting urgent records, then waiting routine ones, up to 8 (R179).
The overflow flag is carried and clears (R180); an empty routine hold stops the timer (R178). -/
def EventQueue.compose (e : EventQueue) : OfficeTx × EventQueue :=
  let u := takeRecs (·.waitingOf .urgent) eventFrameMax e.queue
  let r := takeRecs (·.waitingOf .routine) (eventFrameMax - u.1.length) u.2
  (.event e.overflow (u.1 ++ r.1), ({ e with queue := r.2, overflow := false }).stopIfEmpty)

/-- The Event Queue has an urgent frame to send (R179). -/
def EventQueue.urgentReady (e : EventQueue) : Bool := e.queue.any (·.waitingOf .urgent)

/-- The Event Queue has a routine frame to send (R178). -/
def EventQueue.routineReady (e : EventQueue) : Bool := e.released && e.queue.any (·.waitingOf .routine)

/-- An event frame has been sent: the records it carried that are still in the queue leave it (R180). -/
def EventQueue.sent (e : EventQueue) : EventQueue := { e with queue := e.queue.filter (fun q => !q.inFlight) }

end Sys2Proof.Machine
end

