-- ==== Sys2Proof/Machine/Flags.lean ====
section
/-! DEFINITION. Figures the manual derives from the state and does not store: effective ratings (R3), service (R4),
roster and active departure (R74), target, need and deadline (R75), building load (R59), import ceiling (R63), fleet
power (R58), windows (R138), lendable energy (R125), holdback (R135), capacities (R128, R140). -/

namespace Sys2Proof.Machine

open Sys2Proof

/-! ## Plant Map (01) -/

/-- Effective ratings of a dispenser address (R3). -/
structure Eff where
  ports     : Nat
  cabinet   : Nat
  port0     : Nat
  port1     : Nat
  discharge : Bool
  deriving DecidableEq, Repr

def Eff.zero : Eff := ⟨0, 0, 0, 0, false⟩

/-- R3: table and report, the lower of each, while PRESENT; 0 and clear otherwise. -/
def effRatings (p : PresenceRec) (e : Dispenser) : Eff :=
  match p.presence, p.report with
  | .present, some r =>
    let n := min e.ports r.ports
    { ports := n
      cabinet := min e.cabinet r.cabinet
      port0 := if 0 < n then min e.port0 r.port0 else 0
      port1 := if 1 < n then min e.port1 r.port1 else 0
      discharge := e.discharge && r.discharge }
  | _, _ => .zero

def State.eff (s : State) (d : DispIx) : Eff := effRatings (s.pres d) (s.dispEntry d)

/-- The effective rating of a stall's port (R3). -/
def State.effPort (s : State) (i : StallIx) : Nat :=
  if portOf i = 0 then (s.eff (dispOf i)).port0 else (s.eff (dispOf i)).port1

/-- The effective panel limit: the table limit while in service, else 0 (R3). -/
def State.panelLimit (s : State) (p : PanelIx) : Nat :=
  let e := s.plant.live.panels[p.val]
  if e.inService then e.limit else 0

def State.panelOf (s : State) (i : StallIx) : Option PanelIx := (s.dispEntry (dispOf i)).panel

/-- A panel is in service; NONE is not. -/
def State.panelUp (s : State) : Option PanelIx → Bool
  | some p => s.plant.live.panels[p.val].inService
  | none => false

def State.isPresent (s : State) (d : DispIx) : Bool := (s.pres d).presence == .present

/-- Service status of a stall, re-derived (R4). -/
def State.serviceOf (s : State) (i : StallIx) : Bool :=
  s.configured && s.isPresent (dispOf i) && s.panelUp (s.panelOf i) && decide (portOf i < (s.eff (dispOf i)).ports)

/-- The number of PRESENT dispensers. -/
def State.presentCount (s : State) : Nat := allDisps.countP s.isPresent

/-- The lowest address above `after` (or of all, for none) that satisfies `p`. -/
def lowestAbove (p : DispIx → Bool) (after : Option DispIx) : Option DispIx :=
  allDisps.find? fun d => p d && match after with
    | some a => decide (a < d)
    | none => true

/-- The next address of a rotation over the PRESENT addresses: above the position, else the lowest (R24, R29). -/
def State.nextPresent (s : State) (pos : Option DispIx) : Option DispIx :=
  match lowestAbove s.isPresent pos with
  | some d => some d
  | none => lowestAbove s.isPresent none

/-! ## Session Table (03) -/

/-- The plugged occupancies (03 section 3.1). -/
def Occupancy.isPlugged : Occupancy → Bool
  | .unidentified | .session | .guest | .conflict => true
  | .vacant | .faulted => false

/-- The roster: a used, enabled entry (R43, 3.2). -/
def BusEntry.rostered (e : BusEntry) : Bool := e.fleet != 0 && e.enabled != 0#8

/-- The enabled bus with a fleet number (R43). -/
def State.rosterIx (s : State) (fleet : Nat) : Option BusIx :=
  allBuses.find? fun b => (s.busEntry b).rostered && (s.busEntry b).fleet == fleet

def State.capacity (s : State) (b : BusIx) : Nat := (s.busEntry b).capacity

/-- The bus is in SESSION: it has a stall (R37). -/
def State.inSession (s : State) (b : BusIx) : Bool := (s.bus b).stall.isSome

/-! ## Time and departures (05) -/

/-- Service-day minute of a minute of day (00, The service day). -/
def State.sdMinute (s : State) (m : Nat) : Nat := (m + 1440 - s.params.dayRoll) % 1440

/-- Service-day second of a second of day (R69). -/
def State.sdSecond (s : State) (t : Nat) : Nat := (t + 86400 - 60 * s.params.dayRoll) % 86400

/-- The current minute of day (R67). -/
def State.curMinute (s : State) : Option Nat := s.clock.map (· / 60)

/-- The open states (05). -/
def Readiness.isOpen : Readiness → Bool
  | .scheduled | .charging | .ready | .conditioning => true
  | _ => false

/-- A bus's active departure: its earliest record in list order whose state is open; none for a bus not in the
roster (R74). -/
def State.activeOf (s : State) (b : BusIx) : Option Nat :=
  if (s.busEntry b).rostered then
    s.deps.findIdx? fun d => d.fleet == (s.busEntry b).fleet && d.state.isOpen
  else none

/-- The active departure's record. -/
def State.activeDep (s : State) (b : BusIx) : Option Departure := (s.activeOf b).bind (s.deps[·]?)

/-- Floor energy, ⌊f × c / 1000⌋ (R75). -/
def State.floorEnergy (s : State) (b : BusIx) : Nat := (s.busEntry b).floor * s.capacity b / 1000

/-- Target T = min(c, route energy + floor energy) (R75). -/
def State.targetOf (s : State) (b : BusIx) (d : Departure) : Nat :=
  min (s.capacity b) (d.route + s.floorEnergy b)

/-- The estimate, taken as 0 while UNKNOWN (R75). -/
def State.energyOrZero (s : State) (b : BusIx) : Nat := ((s.bus b).energy).getD 0

/-- Need N = max(0, T − E) (R75). -/
def State.needOf (s : State) (b : BusIx) (d : Departure) : Nat := s.targetOf b d - s.energyOrZero b

/-- Deadline D in minutes; none while the clock is UNSET (R75). -/
def State.deadlineOf (s : State) (d : Departure) : Option Int :=
  s.curMinute.map fun m => (s.sdMinute d.minute : Int) - d.lead - s.sdMinute m

/-- The condition of the protected flag (R82). -/
def State.protectedNow (s : State) (i : StallIx) : Bool :=
  match (s.stall i).occ, (s.stall i).bus with
  | .session, some b =>
    match s.activeDep b with
    | some d => d.state == .conditioning ||
        match s.deadlineOf d with
        | some t => decide (t ≤ (s.params.urgentHorizon : Int))
        | none => false
    | none => false
  | _, _ => false

/-! ## Site Monitor (04) -/

/-- One stall's term of fleet power (R58). -/
def Stall.powerTerm (x : Stall) : Int :=
  match x.fresh with
  | .fresh => x.power
  | .stale => (x.sp.charge : Int) + x.sp.cond - x.sp.dis
  | .unreachable | .none => 0

/-- Fleet power (R58). -/
def State.fleetPower (s : State) : Int := (allStalls.map fun i => (s.stall i).powerTerm).sum

/-- The building load in use (R59). -/
def State.loadInUse (s : State) : Nat :=
  if s.site.fresh then s.site.lastLoad.getD 0
  else match s.site.lastLoad with
    | some l => max l s.params.fallbackLoad
    | none => s.params.fallbackLoad

/-- The import ceiling in force, C (R63). -/
def State.importCeiling (s : State) : Nat :=
  match s.curMinute with
  | some m => if s.grid.liveEmpty then s.plant.live.site.feeder else s.grid.live.ceilings.toList.getD (m / 30) 0
  | none => s.plant.live.site.feeder

/-! ## Discharge Coordinator (08) -/

/-- Protected energy P (R125). -/
def State.protectedEnergy (s : State) (b : BusIx) : Nat :=
  match s.activeDep b with
  | none => s.floorEnergy b
  | some d =>
    match s.deadlineOf d with
    | some t => if (s.params.protectHorizon : Int) < t then s.floorEnergy b else s.targetOf b d
    | none => s.targetOf b d

/-- Lendable energy of a bus, evaluated (R125). -/
def State.lendableNow (s : State) (b : BusIx) : Nat :=
  match (s.bus b).stall, (s.bus b).energy with
  | some i, some e =>
    let x := s.stall i
    if x.occ = .session ∧ x.inService ∧ x.fresh = .fresh ∧ (s.eff (dispOf i)).discharge ∧
        (s.busEntry b).enrolled ≠ 0#8 ∧ x.lend ∧ ¬ x.prot then
      e - s.protectedEnergy b
    else 0
  | _, _ => 0

/-- The lendable pool: the sum of the 64 figures as they stand (R126). -/
def State.pool (s : State) : Nat := (allBuses.map fun b => (s.bus b).lendable).sum

/-- The lendable figure of the bus at a stall; 0 with no bus. -/
def State.lendableAt (s : State) (i : StallIx) : Nat :=
  match (s.stall i).bus with
  | some b => (s.bus b).lendable
  | none => 0

/-- Discharge capacity of a stall (R128). -/
def State.disCapacity (s : State) (i : StallIx) : Nat :=
  match (s.stall i).bus with
  | some b => min (s.busEntry b).discharge (s.effPort i)
  | none => 0

/-! ## Reserve Controller (09) -/

/-- A window contains a minute of day (R138). -/
def WindowEntry.contains (w : WindowEntry) (m : Nat) : Bool :=
  if w.start < w.stop then decide (w.start ≤ m) && decide (m < w.stop)
  else if w.stop < w.start then decide (w.start ≤ m) || decide (m < w.stop)
  else false

def State.winEntry (s : State) (i : WinIx) : WindowEntry := s.grid.live.windows[i.val]

/-- The window in force: the enabled window of the live GRID set that contains the current minute (R138). -/
def State.windowInForce (s : State) : Option WinIx :=
  match s.curMinute with
  | some m =>
    if s.grid.liveEmpty then none
    else (List.finRange 16).find? fun i => (s.winEntry i).enabled && (s.winEntry i).contains m
  | none => none

/-- Holdback of a window: ⌈committed kW × maximum activation / 6⌉ (R135). -/
def WindowEntry.holdback (w : WindowEntry) : Nat := (w.power * w.maxMinutes + 5) / 6

/-- The holdback in force, while ARMED or ARMED_SHORT (R135). -/
def State.holdback (s : State) : Option Nat :=
  match s.reserve.state, s.reserve.window with
  | .armed, some i | .armedShort, some i => some (s.winEntry i).holdback
  | _, _ => none

/-- The holdback test permits storage to discharge (R135). -/
def State.holdbackPermits (s : State) : Bool :=
  match s.holdback with
  | some h => decide (h < s.pool)
  | none => true

/-- Curtailable capacity (R140). -/
def State.curtailable (s : State) : Nat :=
  s.sumStalls fun x => if x.occ.isPlugged && !x.prot then x.sp.charge else 0

/-- Dischargeable capacity (R140). -/
def State.dischargeable (s : State) : Nat :=
  (allDisps.map fun d =>
    min (s.eff d).cabinet ((stallsOf d).map fun i => if 0 < s.lendableAt i then s.disCapacity i else 0).sum).sum

/-- The current minute lies in a window; false while the clock is UNSET. -/
def State.minuteIn (s : State) (w : WindowEntry) : Bool :=
  match s.curMinute with
  | some m => w.contains m
  | none => false

end Sys2Proof.Machine
end

