-- ==== Sys2Proof/Machine/Octets.lean ====
section
/-! DEFINITION. Octets: numbers in octets (12.1), the two CRCs (R182, R183), the envelope (R182) and the receiver
that takes it apart (R17, R18). -/

namespace Sys2Proof.Machine

open Sys2Proof

/-- A two-octet number, most significant octet first (12.1). -/
def be16 (n : Nat) : List Byte := [BitVec.ofNat 8 (n / 256), BitVec.ofNat 8 n]

/-- A four-octet number, most significant octet first. -/
def be32 (n : Nat) : List Byte :=
  [BitVec.ofNat 8 (n / 16777216), BitVec.ofNat 8 (n / 65536), BitVec.ofNat 8 (n / 256), BitVec.ofNat 8 n]

/-- One octet holding a number. -/
def oct (n : Nat) : Byte := BitVec.ofNat 8 n

def flagOct (b : Bool) : Byte := if b then 1#8 else 0#8

def rd16 (a b : Byte) : Nat := a.toNat * 256 + b.toNat

def rd32 (a b c d : Byte) : Nat := ((a.toNat * 256 + b.toNat) * 256 + c.toNat) * 256 + d.toNat

/-- Two's complement of `width` bits (12.1). -/
def signed (width n : Nat) : Int := if n < 2 ^ (width - 1) then (n : Int) else (n : Int) - 2 ^ width

/-! ## CRC-16 (R182) -/

def crc16Bit (c : BitVec 16) : BitVec 16 :=
  if c.msb then (c <<< 1) ^^^ 0x1021#16 else c <<< 1

def crc16Step (c : BitVec 16) (o : Byte) : BitVec 16 :=
  let b := crc16Bit
  b (b (b (b (b (b (b (b (c ^^^ (o.setWidth 16 <<< 8)))))))))

/-- Polynomial 0x1021, initial value 0xFFFF, no reflection, no final inversion. -/
def crc16 (os : List Byte) : BitVec 16 := os.foldl crc16Step 0xFFFF#16

/-! ## CRC-32 (R183) -/

def crc32Bit (c : BitVec 32) : BitVec 32 :=
  if c.getLsbD 0 then (c >>> 1) ^^^ 0xEDB88320#32 else c >>> 1

def crc32Step (c : BitVec 32) (o : Byte) : BitVec 32 :=
  let b := crc32Bit
  b (b (b (b (b (b (b (b (c ^^^ o.setWidth 32))))))))

/-- Polynomial 0x04C11DB7 reflected (0xEDB88320), initial value and final inversion 0xFFFFFFFF. -/
def crc32 (os : List Byte) : BitVec 32 := os.foldl crc32Step 0xFFFFFFFF#32 ^^^ 0xFFFFFFFF#32

/-! ## The envelope (12.2, R182) -/

/-- Header and body, the octets the CRC is taken over. -/
def frameOctets (f : Frame) : List Byte :=
  f.dest :: f.src :: f.kind :: f.tag :: oct f.body.length :: f.body

/-- An octet as it is sent between SYNC2 and the end of the frame. -/
def escapeOctet (o : Byte) : List Byte :=
  if o = sync1 then [escape, 1#8] else if o = escape then [escape, 2#8] else [o]

/-- The octets the part sends for a frame (R182). -/
def wireOctets (f : Frame) : List Byte :=
  sync1 :: sync2 :: (frameOctets f ++ be16 (crc16 (frameOctets f)).toNat).flatMap escapeOctet

/-! ## The receiver (R17, R18) -/

/-- What an octet brought about: nothing yet, a valid frame, or a bad frame. -/
inductive RxEvent where
  | quiet
  | valid (f : Frame)
  | bad
  deriving DecidableEq, Repr

def Receiver.hunt (r : Receiver) : Receiver := { r with state := .hunt, buf := [], esc := false }

/-- After an escape error or an unescaped SYNC1: SYNC1_SEEN when the octet is SYNC1, HUNT otherwise (R17). -/
def Receiver.failOn (r : Receiver) (o : Byte) : Receiver :=
  { r with state := if o = sync1 then .sync1Seen else .hunt, buf := [], esc := false }

/-- The body length field of the octets decoded so far. -/
def bodyLength (buf : List Byte) : Nat := (buf.getD 4 0#8).toNat

/-- The frame held by a complete buffer. -/
def frameOf (buf : List Byte) : Frame :=
  ⟨buf.getD 0 0#8, buf.getD 1 0#8, buf.getD 2 0#8, buf.getD 3 0#8, (buf.drop 5).take (bodyLength buf)⟩

/-- The two CRC octets of a complete buffer agree with its header and body. -/
def crcAgrees (buf : List Byte) : Bool :=
  buf.drop (5 + bodyLength buf) == be16 (crc16 (buf.take (5 + bodyLength buf))).toNat

/-- A decoded octet joins the frame being assembled (R18). -/
def Receiver.append (r : Receiver) (o : Byte) : Receiver × RxEvent :=
  let buf := r.buf ++ [o]
  if buf.length = 5 ∧ maxBody < bodyLength buf then (r.hunt, .bad)
  else if 5 ≤ buf.length ∧ buf.length = bodyLength buf + 7 then
    (r.hunt, if crcAgrees buf then .valid (frameOf buf) else .bad)
  else ({ r with state := .frame, buf := buf, esc := false }, .quiet)

/-- One octet (R17). In BREAK the input is held at space and no octet is received. -/
def Receiver.octet (r : Receiver) (o : Byte) : Receiver × RxEvent :=
  match r.state with
  | .brk => (r, .quiet)
  | .hunt => (if o = sync1 then { r with state := .sync1Seen } else r, .quiet)
  | .sync1Seen =>
    if o = sync2 then ({ r with state := .frame, buf := [], esc := false }, .quiet)
    else if o = sync1 then (r, .quiet)
    else (r.hunt, .quiet)
  | .frame =>
    if r.esc then
      if o = 1#8 then r.append sync1
      else if o = 2#8 then r.append escape
      else (r.failOn o, .bad)
    else if o = sync1 then (r.failOn o, .bad)
    else if o = escape then ({ r with esc := true }, .quiet)
    else r.append o

/-- A valid frame has come whole: the receiver stands in HUNT and no bad frame is remembered (R18). -/
def Receiver.afterValid (r : Receiver) : Receiver := { r.hunt with badSince := false }

/-- A break is detected (R19). -/
def Receiver.enterBreak (r : Receiver) : Receiver :=
  { r with state := .brk, buf := [], esc := false, atSpace := true }

/-- The input returns to mark (R19). -/
def Receiver.leaveBreak (r : Receiver) : Receiver :=
  { r with state := if r.state = .brk then .hunt else r.state, atSpace := false }

end Sys2Proof.Machine
end

