-- ==== Sys2Proof/Machine/Layouts.lean ====
section
/-! DEFINITION. Octet layouts: table entries with their range checks (12.8, R1, R169, R170) and status records (12.7,
R164). -/

namespace Sys2Proof.Machine

open Sys2Proof

/-! ## Table entries -/

/-- The number of entries of a table of a set and the octets of an entry (12.8); none for an unknown table. -/
def tableShape (set table : Nat) : Option (Nat × Nat) :=
  match set, table with
  | 0, 0 => some (1, 6)
  | 0, 1 => some (6, 3)
  | 0, 2 => some (24, 8)
  | 1, 0 => some (64, 10)
  | 2, 0 => some (96, 9)
  | 3, 0 => some (16, 9)
  | 3, 1 => some (1, 10)
  | 3, 2 => some (48, 2)
  | 4, 0 => some (1, 21)
  | 4, 1 => some (64, 1)
  | _, _ => none

def Site.octets (x : Site) : List Byte := be16 x.feeder ++ be16 x.keyA ++ be16 x.keyB
def Panel.octets (x : Panel) : List Byte := flagOct x.inService :: be16 x.limit
def Dispenser.octets (x : Dispenser) : List Byte :=
  [flagOct x.listed, (x.panel.map fun p => oct p.val).getD 0xFF#8, oct x.ports] ++ be16 x.cabinet ++
    [oct x.port0, oct x.port1, flagOct x.discharge]
def BusEntry.octets (x : BusEntry) : List Byte :=
  be16 x.fleet ++ be16 x.capacity ++ be16 x.floor ++ [oct x.accept, oct x.discharge, x.enrolled, x.enabled]
def DepEntry.octets (x : DepEntry) : List Byte :=
  be16 x.fleet ++ be16 x.minute ++ be16 x.route ++ [oct x.lead, oct x.power, x.enabled]
def WindowEntry.octets (x : WindowEntry) : List Byte :=
  flagOct x.enabled :: be16 x.start ++ be16 x.stop ++ be16 x.power ++ [oct x.maxMinutes, flagOct x.freqTrigger]
def FreqEntry.octets (x : FreqEntry) : List Byte :=
  be32 x.trip ++ be32 x.restore ++ [oct x.tripCount, oct x.restoreCount]
def EventClass.octet : EventClass → Byte
  | .routine => 0#8
  | .urgent => 1#8
def Params.octets (x : Params) : List Byte :=
  oct x.period :: be16 x.urgentHorizon ++ be16 x.protectHorizon ++ be16 x.chargeTo ++
    [oct x.guestCeiling, oct x.releaseWindow] ++ be16 x.rampStep ++
    [flagOct x.storageEnable, oct x.shaveThreshold, oct x.heartbeatPeriod, oct x.batchThreshold, oct x.holdTime] ++
    be16 x.dayRoll ++ be16 x.fallbackLoad ++ [flagOct x.autoSwitch]

/-- A flag octet of PLANT or GRID; none outside its range (12.8). -/
def flagOf (o : Byte) : Option Bool := if o = 0#8 then some false else if o = 1#8 then some true else none

/-- A panel octet: 0 to 5, or 0xFF for NONE; the outer none is outside its range (12.8). -/
def panelFrom (o : Byte) : Option (Option PanelIx) :=
  if h : o.toNat < 6 then some (some ⟨o.toNat, h⟩) else if o = 0xFF#8 then some none else none

/-- `x` when the range check holds. -/
def keepIf {α : Type} (ok : Bool) (x : α) : Option α := if ok then some x else none

/-- Lies in a range, ends included. -/
def within (lo hi n : Nat) : Bool := decide (lo ≤ n) && decide (n ≤ hi)

def siteFrom (o : List Byte) : Option Site :=
  match o with
  | [a, b, c, d, e, f] => keepIf (within 0 6000 (rd16 a b)) ⟨rd16 a b, rd16 c d, rd16 e f⟩
  | _ => none

def panelEntryFrom (o : List Byte) : Option Panel :=
  match o with
  | [f, a, b] => (flagOf f).bind fun v => keepIf (within 0 2000 (rd16 a b)) ⟨v, rd16 a b⟩
  | _ => none

def dispenserFrom (o : List Byte) : Option Dispenser :=
  match o with
  | [l, p, n, a, b, c, d, f] =>
    (flagOf l).bind fun listed => (panelFrom p).bind fun panel => (flagOf f).bind fun dis =>
      keepIf (within 1 2 n.toNat && within 0 400 (rd16 a b) && within 0 250 c.toNat && within 0 250 d.toNat)
        ⟨listed, panel, n.toNat, rd16 a b, c.toNat, d.toNat, dis⟩
  | _ => none

/-- A BUS entry; an unused one is stored as written (R169). -/
def busFrom (o : List Byte) : Option BusEntry :=
  match o with
  | [a, b, c, d, e, f, g, h, i, j] =>
    let x : BusEntry := ⟨rd16 a b, rd16 c d, rd16 e f, g.toNat, h.toNat, i, j⟩
    keepIf (x.fleet == 0 || within 100 6000 x.capacity && within 0 500 x.floor && within 1 250 x.accept &&
      within 0 250 x.discharge && (flagOf i).isSome && (flagOf j).isSome) x
  | _ => none

/-- A DEPARTURE entry; an unused one is stored as written (R169). -/
def depFrom (o : List Byte) : Option DepEntry :=
  match o with
  | [a, b, c, d, e, f, g, h, i] =>
    let x : DepEntry := ⟨rd16 a b, rd16 c d, rd16 e f, g.toNat, h.toNat, i⟩
    keepIf (x.fleet == 0 || within 0 1439 x.minute && within 0 6000 x.route && within 0 60 x.lead &&
      within 0 50 x.power && (flagOf i).isSome) x
  | _ => none

def windowFrom (o : List Byte) : Option WindowEntry :=
  match o with
  | [e, a, b, c, d, f, g, m, t] =>
    (flagOf e).bind fun en => (flagOf t).bind fun tr =>
      let low := if en then 1 else 0
      keepIf (within 0 1439 (rd16 a b) && within 0 1439 (rd16 c d) && within low 2000 (rd16 f g) &&
        within low 120 m.toNat) ⟨en, rd16 a b, rd16 c d, rd16 f g, m.toNat, tr⟩
  | _ => none

/-- The range of a FREQUENCY entry (R169), which COMMIT also examines (R172). -/
def FreqEntry.inRange (x : FreqEntry) : Bool :=
  within 40000 70000 x.trip && within 40000 70000 x.restore && within 1 15 x.tripCount && within 1 15 x.restoreCount

def freqFrom (o : List Byte) : Option FreqEntry :=
  match o with
  | [a, b, c, d, e, f, g, h, i, j] =>
    let x : FreqEntry := ⟨rd32 a b c d, rd32 e f g h, i.toNat, j.toNat⟩
    keepIf x.inRange x
  | _ => none

def ceilingFrom (o : List Byte) : Option Nat :=
  match o with
  | [a, b] => keepIf (within 0 6000 (rd16 a b)) (rd16 a b)
  | _ => none

/-- A field brought to the nearer end of its range, with whether it was outside it (R170). -/
def clampField (lo hi n : Nat) : Nat × Bool := (max lo (min hi n), !(within lo hi n))

/-- A POLICY flag: a value other than 0 and 1 is stored as on (R170). -/
def clampFlag (o : Byte) : Bool × Bool := (o != 0#8, (flagOf o).isNone)

/-- PARAMETERS, clamped, with whether any field was replaced (R170). -/
def paramsFrom (o : List Byte) : Option (Params × Bool) :=
  match o with
  | [p, u1, u2, e1, e2, c1, c2, g, r, s1, s2, st, sh, hb, bt, ht, d1, d2, f1, f2, al] =>
    let period := clampField 1 10 p.toNat
    let urgent := clampField 15 240 (rd16 u1 u2)
    let protect := clampField 30 480 (rd16 e1 e2)
    let level := clampField 500 1000 (rd16 c1 c2)
    let guest := clampField 0 50 g.toNat
    let release := clampField 5 120 r.toNat
    let ramp := clampField 10 1000 (rd16 s1 s2)
    let store := clampFlag st
    let shave := clampField 5 200 sh.toNat
    let heart := clampField 5 120 hb.toNat
    let batch := clampField 1 16 bt.toNat
    let hold := clampField 1 60 ht.toNat
    let roll := clampField 0 1439 (rd16 d1 d2)
    let fallback := clampField 0 6000 (rd16 f1 f2)
    let auto := clampFlag al
    some ({ period := period.1
            urgentHorizon := urgent.1
            protectHorizon := protect.1
            chargeTo := level.1
            guestCeiling := guest.1
            releaseWindow := release.1
            rampStep := ramp.1
            storageEnable := store.1
            shaveThreshold := shave.1
            heartbeatPeriod := heart.1
            batchThreshold := batch.1
            holdTime := hold.1
            dayRoll := roll.1
            fallbackLoad := fallback.1
            autoSwitch := auto.1 },
          period.2 || urgent.2 || protect.2 || level.2 || guest.2 || release.2 || ramp.2 || store.2 || shave.2 ||
            heart.2 || batch.2 || hold.2 || roll.2 || fallback.2 || auto.2)
  | _ => none

/-- A CLASSES entry: a value other than the two is stored as URGENT (R170). -/
def classFrom (o : List Byte) : Option (EventClass × Bool) :=
  match o with
  | [c] => some (if c = 0#8 then .routine else .urgent, (flagOf c).isNone)
  | _ => none

/-! ## The sets, entry by entry -/

/-- What the Table Store needs of a set: its number, how an entry is stored (with whether a value was replaced; none
when it is refused RANGE), how an entry reads, and all its octets in the order of R183. -/
structure SetKind (α : Type) where
  number : Nat
  store  : α → Nat → Nat → List Byte → Option (α × Bool)
  entry  : α → Nat → Nat → List Byte
  octets : α → List Byte

def entryAt {α : Type} {n : Nat} (v : Vector α n) (octets : α → List Byte) (i : Nat) : List Byte :=
  if h : i < n then octets v[i] else []

def storeAt {α : Type} {n : Nat} (v : Vector α n) (i : Nat) (x : Option α) : Option (Vector α n) :=
  x.map fun y => v.setIfInBounds i y

def plantKind : SetKind PlantSet where
  number := 0
  store p table i o :=
    match table with
    | 0 => (siteFrom o).map fun x => ({ p with site := x }, false)
    | 1 => (storeAt p.panels i (panelEntryFrom o)).map fun v => ({ p with panels := v }, false)
    | _ => (storeAt p.dispensers i (dispenserFrom o)).map fun v => ({ p with dispensers := v }, false)
  entry p table i :=
    match table with
    | 0 => p.site.octets
    | 1 => entryAt p.panels Panel.octets i
    | _ => entryAt p.dispensers Dispenser.octets i
  octets p := p.site.octets ++ p.panels.toList.flatMap Panel.octets ++ p.dispensers.toList.flatMap Dispenser.octets

def fleetKind : SetKind (Vector BusEntry 64) where
  number := 1
  store v _ i o := (storeAt v i (busFrom o)).map fun w => (w, false)
  entry v _ i := entryAt v BusEntry.octets i
  octets v := v.toList.flatMap BusEntry.octets

def scheduleKind : SetKind (Vector DepEntry 96) where
  number := 2
  store v _ i o := (storeAt v i (depFrom o)).map fun w => (w, false)
  entry v _ i := entryAt v DepEntry.octets i
  octets v := v.toList.flatMap DepEntry.octets

def gridKind : SetKind GridSet where
  number := 3
  store g table i o :=
    match table with
    | 0 => (storeAt g.windows i (windowFrom o)).map fun v => ({ g with windows := v }, false)
    | 1 => (freqFrom o).map fun x => ({ g with freq := x }, false)
    | _ => (storeAt g.ceilings i (ceilingFrom o)).map fun v => ({ g with ceilings := v }, false)
  entry g table i :=
    match table with
    | 0 => entryAt g.windows WindowEntry.octets i
    | 1 => g.freq.octets
    | _ => entryAt g.ceilings be16 i
  octets g := g.windows.toList.flatMap WindowEntry.octets ++ g.freq.octets ++ g.ceilings.toList.flatMap be16

def policyKind : SetKind PolicySet where
  number := 4
  store p table i o :=
    match table with
    | 0 => (paramsFrom o).map fun x => ({ p with params := x.1 }, x.2)
    | _ => (classFrom o).map fun x => ({ p with classes := p.classes.setIfInBounds i x.1 }, x.2)
  entry p table i :=
    match table with
    | 0 => p.params.octets
    | _ => entryAt p.classes (fun c => [c.octet]) i
  octets p := p.params.octets ++ p.classes.toList.map EventClass.octet

/-! ## Status records (12.7) -/

/-- A field of a status record, with the form 12.1 and 12.7 give it. -/
inductive StatusField where
  /-- A state, a mode, a flag or a table: one octet. -/
  | one (n : Nat)
  /-- A number in two octets, unsigned. -/
  | two (n : Nat)
  /-- A number in two octets, signed. -/
  | sgn (n : Int)
  /-- Four octets, 0xFFFFFFFF when absent. -/
  | four (n : Option Int)
  /-- Two octets, 0x8000 when absent. -/
  | opt (n : Option Int)
  /-- A presence octet and two octets. -/
  | pres (n : Option Nat)
  /-- Octets laid out elsewhere. -/
  | raw (o : List Byte)
  /-- A figure the manual does not state (log 7). -/
  | unstated
  deriving DecidableEq, Repr

/-- The two octets of a signed number. -/
def word (n : Int) : List Byte := be16 (BitVec.ofInt 16 n).toNat

/-- Two octets the manual leaves open. -/
def openWord (occurrence field : Nat) : List Byte := be16 (Config.freeWord occurrence field).toNat

/-- An unsigned number in two octets; open when it does not fit (log 7). -/
def twoOctets (occurrence field n : Nat) : List Byte := if n < 65536 then be16 n else openWord occurrence field

/-- A field's octets; `field` is its place in the record. -/
def StatusField.octets (occurrence field : Nat) : StatusField → List Byte
  | .one n => [oct n]
  | .two n => twoOctets occurrence field n
  | .sgn n => if -32768 ≤ n ∧ n ≤ 32767 then word n else openWord occurrence field
  | .four n => be32 (match n with
    | some v => (BitVec.ofInt 32 v).toNat
    | none => 0xFFFFFFFF)
  | .opt n => word (n.getD 0x8000)
  | .pres n => match n with
    | some v => 1#8 :: twoOctets occurrence field v
    | none => [0#8, 0#8, 0#8]
  | .raw o => o
  | .unstated => openWord occurrence field

/-- A record's octets. -/
def recordOctets (occurrence : Nat) (fs : List StatusField) : List Byte :=
  fs.zipIdx.flatMap fun p => p.1.octets occurrence p.2

def bit (b : Bool) : Nat := if b then 1 else 0

/-- A flag. -/
def StatusField.flag (b : Bool) : StatusField := .one (bit b)

/-- An index that may be absent. -/
def StatusField.index {n : Nat} (i : Option (Fin n)) : StatusField := .opt (i.map fun x => (x.val : Int))

def RxState.code : RxState → Nat
  | .hunt => 0
  | .sync1Seen => 1
  | .frame => 2
  | .brk => 3
def Health.code : Health → Nat
  | .good => 0
  | .failed => 1
  | .test => 2
def Presence.code : Presence → Nat
  | .unlisted => 0
  | .unprobed => 1
  | .present => 2
  | .absent => 3
def Occupancy.code : Occupancy → Nat
  | .vacant => 0
  | .unidentified => 1
  | .session => 2
  | .guest => 3
  | .conflict => 4
  | .faulted => 5
def Freshness.code : Freshness → Nat
  | .none => 0
  | .fresh => 1
  | .stale => 2
  | .unreachable => 3
def Controller.code : Controller → Nat
  | .allocator => 0
  | .reserve => 1
  | .storage => 2
def ownerCode : Option Owner → Nat
  | none => 0
  | some .reserve => 1
  | some .storage => 2
def Readiness.code : Readiness → Nat
  | .disabled => 0
  | .scheduled => 1
  | .charging => 2
  | .ready => 3
  | .conditioning => 4
  | .departed => 5
  | .departedShort => 6
  | .notDeparted => 7
  | .absent => 8
  | .cancelled => 9
def ReserveMod.code : ReserveMod → Nat
  | .none => 0
  | .active => 1
  | .recovery => 2
def StorageState.code : StorageState → Nat
  | .idle => 0
  | .shaving => 1
  | .inhibited => 2
def ReserveState.code : ReserveState → Nat
  | .disarmed => 0
  | .armed => 1
  | .armedShort => 2
  | .active => 3
  | .recovery => 4
def Trigger.code : Trigger → Nat
  | .dispatch => 0
  | .frequency => 1

/-- The setpoint queue's entry for a stall, as R123 returns it (log 9). -/
def State.queueFields (s : State) (i : StallIx) : List StatusField :=
  match s.setQ.find? (·.stall == i) with
  | some e => [.flag true, .flag e.reserve, .flag e.inFlight]
  | none => [.flag false, .one 0xFF, .one 0xFF]

/-- The stall record (R164: R53, R87, R110, R123, R136). -/
def State.stallRecord (s : State) (i : StallIx) : List StatusField :=
  let x := s.stall i
  [.flag (!x.inService), .one x.occ.code, .one x.fresh.code, .two x.age, .index x.bus, .pres x.fleetNo,
    .flag x.plugged, .sgn x.power, .two x.fault, .four x.baseline, .sgn x.residue, .index x.partner,
    .flag x.prot, .two x.grant, .two x.condGrant, .opt (x.cap.map fun n => (n : Int)), .flag (!x.lend),
    .one x.controller.code, .two x.sp.charge, .two x.sp.cond, .two x.sp.dis, .two x.lastPosted]
    ++ s.queueFields i ++ [.one (ownerCode x.owner), .two x.discharge]

/-- The bus record (R53). An UNKNOWN estimate has the octets of an absent field, and the enabled flag goes as the octet
that is stored (log 9). -/
def State.busRecord (s : State) (b : BusIx) : List StatusField :=
  let x := s.bus b
  [.two (s.busEntry b).fleet, .one (s.busEntry b).enabled.toNat, .opt (x.energy.map fun n => (n : Int)),
    .flag x.carried, .index x.stall, .opt ((s.activeOf b).map fun n => (n : Int)), .two x.lendable]

/-- The departure record (R87). -/
def State.departureRecord (s : State) (pos : Nat) (d : Departure) : List StatusField :=
  let b := s.rosterIx d.fleet
  [.two d.fleet, .two d.minute, .two d.route, .two d.lead, .two d.power, .flag d.enabled, .one d.state.code,
    .flag d.short, .flag d.atRisk, .index b, .flag (b.any fun b => s.activeOf b == some pos),
    match b with
    | some b => .two (s.targetOf b d)
    | none => .unstated,
    .opt (b.map fun b => (s.needOf b d : Int)), .opt (s.deadlineOf d)]

/-- The stall line record (R16). -/
def State.lineRecord (s : State) (l : StallLine) : List StatusField :=
  let x := s.line l
  [.flag (l != s.active), .one x.health.code, .one x.rx.state.code, .two x.qual, .two x.errors, .two x.unanswered,
    .two s.setQ.length, .two s.passQ.length]

/-- The meter line record (R65). -/
def State.meterRecord (s : State) : List StatusField :=
  let m := s.site
  [.one m.rx.state.code, .two m.errors, .flag (!m.fresh), .opt (m.sample.map (·.importKw)),
    .four (m.sample.map fun x => (x.freq : Int)), .pres (m.sample.map (·.seq)), .sgn m.fleetPower, .pres m.lastLoad,
    .two s.loadInUse, .flag m.low, .two m.trip, .two m.restore, .two s.importCeiling]

/-- The office line record (R164). -/
def State.officeRecord (s : State) : List StatusField :=
  let o := s.office
  [.one o.rx.state.code, .two o.errors, .two o.inbound.length, .two o.forward.length, .flag o.dropMark,
    .two o.dropCount]

/-- A presence record in the packed census record (12.7). -/
def State.presenceOctets (s : State) (d : DispIx) : List Byte :=
  let p := s.pres d
  let e := s.eff d
  let r := p.report.getD ⟨0, 0, 0, 0, false⟩
  [oct (p.presence.code * 64 + p.miss * 32 + bit p.report.isSome * 16 + bit r.discharge * 8 + bit e.discharge * 4 +
      bit (256 ≤ r.cabinet) * 2 + bit (256 ≤ e.cabinet)),
    oct (r.ports * 16 + e.ports), oct r.cabinet, oct r.port0, oct r.port1, oct e.cabinet, oct e.port0, oct e.port1]

/-- Eight marks of the unlisted-seen set in one octet, address `base + 1` in bit 7 (12.7). -/
def State.seenOctet (s : State) (base : Nat) : Byte :=
  oct ((List.range 8).map fun k => bit (s.census.unlistedSeen.toList.getD (base + k) false) * 2 ^ (7 - k)).sum

/-- The census record (12.7). -/
def State.censusRecord (s : State) : List StatusField :=
  [.flag s.census.running, .one ((s.census.probe.map fun d => d.val + 1).getD 0), .flag s.census.outstanding,
    .raw [s.seenOctet 0, s.seenOctet 8, s.seenOctet 16], .raw (allDisps.flatMap s.presenceOctets)]

/-- The activation record (9.4); its copied window is given in the WINDOW entry layout (12.7). -/
def Activation.fields (a : Activation) : List StatusField :=
  [.one a.trigger.code, .pres a.requestId, .two a.target, .raw a.window.octets, .two a.windowIx.val,
    .sgn a.baseline, .four (some a.start), .two a.elapsed, .two a.frozen, .two a.curtailed, .two a.placed,
    .two a.shortfall,
    match a.delivered with
    | some n => .sgn n
    | none => .unstated,
    .flag a.tripSeen,
    .one (match a.ended with
      | none => 0xFF
      | some .release => 0
      | some .limit => 1
      | some .windowEnd => 2
      | some .restore => 3)]

/-- The reserve record (R155); an absent activation record is told by a presence octet (log 9), and the holdback is that
of the current window's entry in the live GRID set, in every state (log 34). -/
def State.reserveRecord (s : State) : List StatusField :=
  let r := s.reserve
  [.one r.state.code, .index r.window, .two s.curtailable, .two s.dischargeable,
    .pres (r.window.map fun w => (s.winEntry w).holdback)] ++
    (match r.act with
    | some a => .flag true :: a.fields
    | none => [.flag false]) ++
    [.one r.held.length, .raw (r.held.flatMap fun e => [oct e.1.val, oct e.2])]

def State.owned (s : State) (o : Owner) : Nat := allStalls.countP fun i => (s.stall i).owner == some o

/-- The storage record (R136). -/
def State.storageRecord (s : State) : List StatusField :=
  [.one s.storage.state.code, .flag s.params.storageEnable, .pres s.storage.target, .two s.storage.placed,
    .two s.storage.shortfall, .four (some s.pool), .pres s.holdback, .two (s.owned .storage), .two (s.owned .reserve)]

/-- The table set record (R164). -/
def TableSet.fields {α : Type} (t : TableSet α) : List StatusField :=
  [.two t.generation, .flag t.liveEmpty, .flag t.pending, .one t.selected, .two t.cursor]

/-- The allocation record (R110). An UNSET minute of the last round has the octets of an absent field (log 9). -/
def State.allocFields (s : State) : List StatusField :=
  let r := s.alloc.record
  [.two s.alloc.roundCount, .opt (r.minute.map fun n => (n : Int)), .two r.feeder, .two r.ceiling, .two r.load,
    .two r.cond, .two r.hard, .two r.soft, .two r.softPlain, .one r.modif.code, .two r.ramp, .two r.chargeSum,
    .two r.handedOut,
    match r.unused with
    | some n => .two n
    | none => .unstated]

/-- The part record (R164). -/
def State.partRecord (s : State) : List StatusField :=
  s.allocFields ++ [.two s.pathSecond, .flag s.configured, .flag s.superv.supervised, .flag s.superv.expectB,
    .opt (if s.superv.supervised then some (s.superv.timer : Int) else none), .four (s.clock.map fun n => (n : Int))]

/-- The record STATUS READ names (12.7, R164); none is answered RANGE. -/
def State.statusRecord (s : State) (record index : Nat) : Option (List StatusField) :=
  match record with
  | 1 => if h : index < 48 then some (s.stallRecord ⟨index, h⟩) else none
  | 2 => if h : index < 64 then some (s.busRecord ⟨index, h⟩) else none
  | 3 => (s.deps[index]?).map fun d => s.departureRecord index d
  | 4 =>
    match index with
    | 0 => some (s.lineRecord .a)
    | 1 => some (s.lineRecord .b)
    | 2 => some s.meterRecord
    | 3 => some s.officeRecord
    | _ => none
  | 5 => some s.censusRecord
  | 6 => some s.reserveRecord
  | 7 => some s.storageRecord
  | 8 =>
    match index with
    | 0 => some (s.plant.fields ++ [.flag s.lock])
    | 1 => some s.fleet.fields
    | 2 => some s.schedule.fields
    | 3 => some s.grid.fields
    | 4 => some s.policy.fields
    | _ => none
  | 9 => some s.partRecord
  | _ => none

end Sys2Proof.Machine
end

