-- ==== Sys2Proof/Machine/Frames.lean ====
section
/-! DEFINITION. The frames the part sends (12.2, 12.4, 12.6, R25, R27, R35, R180): the frame a transmission in progress
stands for, and its octets on the line. -/

namespace Sys2Proof.Machine

open Sys2Proof

/-- A frame the part originates, with tag 0 (12.2). -/
def ownFrame (dest kind : Byte) (body : List Byte) : Frame := ⟨dest, addrPart, kind, 0#8, body⟩

/-- The body of a TEST frame (12.4). -/
def testPattern : List Byte := [0xC5#8, 0xB7#8, 0x3A#8, 0x00#8, 0xFF#8, 0x55#8, 0xAA#8, 0x01#8]

/-- The frame of a transmission on a stall line: POLL, CENSUS and CHECK with empty bodies, SET with its port and three
values (R27), a pass-through frame as the supervisor sent it (R28), FILL with the round count (R25), TEST with its tag
(R35). -/
def StallTx.frame : StallTx → Frame
  | .poll d _ => ownFrame (addrOf d) kPoll []
  | .census d _ => ownFrame (addrOf d) kCensus []
  | .set i charge cond dis => ownFrame (addrOf (dispOf i)) kSet [oct (portOf i), oct charge, oct cond, oct dis]
  | .pass f => f
  | .fill count => ownFrame addrBroadcast kFill [oct count]
  | .check d => ownFrame (addrOf d) kCheck []
  | .test tag => ⟨addrPart, addrPart, kTest, oct tag, testPattern⟩

/-! ## Event frames (R175, R180, 12.6) -/

/-- A subject kind's octet (12.6). -/
def Subject.kindOctet : Subject → Byte
  | .stall _ => 0#8
  | .departure _ => 1#8
  | .dispenser _ => 2#8
  | .line _ => 3#8
  | .reserve _ => 4#8
  | .tableSet _ => 5#8
  | .part => 6#8

/-- A subject's index; a dispenser's is its address (R175). -/
def Subject.index : Subject → Nat
  | .stall i => i.val
  | .departure p => p
  | .dispenser d => d.val + 1
  | .line l => Line.index l
  | .reserve w => w
  | .tableSet n => n
  | .part => 0

/-- A record's 10 octets in an event frame (12.6). -/
def EventRec.octets (r : EventRec) : List Byte :=
  [oct r.kind.code, r.cls.octet, r.subject.kindOctet, oct r.subject.index] ++ be16 (BitVec.ofInt 16 r.param).toNat ++
    be32 (r.time.getD 0xFFFFFFFF)

/-- The frame of a transmission on the office line (R159, R161, R180). -/
def OfficeTx.frame : OfficeTx → Frame
  | .response f => f
  | .forward f => f
  | .event overflow recs =>
    ownFrame addrSupervisor kEvent (flagOct overflow :: oct recs.length :: recs.flatMap EventRec.octets)

/-- The frame being sent on a line; the meter line has no transmitter. -/
def State.sending (s : State) : Line → Option Frame
  | .a => s.lineA.tx.map StallTx.frame
  | .b => s.lineB.tx.map StallTx.frame
  | .meter => none
  | .office => s.office.tx.map OfficeTx.frame

/-- The octets of the frame being sent on a line (R182). -/
def State.onLine (s : State) (l : Line) : List Byte := ((s.sending l).map wireOctets).getD []

end Sys2Proof.Machine
end

