-- ==== Sys2Proof/Machine/Readiness.lean ====
section
/-! DEFINITION. The Readiness Tracker (05): evaluation, outcomes, moves of the clock, AT_RISK, protected flags and the
order of the departure list. -/

namespace Sys2Proof.Machine

open Sys2Proof

def State.setDep (s : State) (pos : Nat) (d : Departure) : State := { s with deps := s.deps.set pos d }

/-- The positions of the departure list, in list order. -/
def State.positions (s : State) : List Nat := List.range s.deps.length

/-! ## Evaluation (R76, R77) -/

/-- The state an open record is evaluated to (R76). -/
def State.evalState (s : State) (pos : Nat) (d : Departure) : Readiness :=
  match s.rosterIx d.fleet with
  | none => .scheduled
  | some b =>
    if s.activeOf b = some pos ∧ s.inSession b then
      match s.deadlineOf d with
      | some t => if t ≤ 0 then .conditioning else if 0 < s.needOf b d then .charging else .ready
      | none => if 0 < s.needOf b d then .charging else .ready
    else .scheduled

/-- The record's bus still has a need. -/
def State.hasNeed (s : State) (d : Departure) : Bool :=
  match s.rosterIx d.fleet with
  | some b => decide (0 < s.needOf b d)
  | none => false

/-- An open record after evaluation: its state, its short flag (R77), its AT_RISK flag, which clears on leaving
CHARGING and CONDITIONING (R81). -/
def State.evaluated (s : State) (pos : Nat) (d : Departure) : Departure :=
  let st := s.evalState pos d
  { d with
    state := st
    short := st == .conditioning && s.hasNeed d
    atRisk := d.atRisk && (st == .charging || st == .conditioning) }

/-- The event of an evaluation (R76). -/
def State.evalEvent (s : State) (pos : Nat) (old new : Departure) : State :=
  if (new.state = .ready ∧ old.state ≠ .ready) ∨
      (new.state = .conditioning ∧ old.state = .conditioning ∧ old.short ∧ ¬ new.short) then
    s.raise .ready (.departure pos) 0
  else if new.state = .conditioning ∧ old.state ≠ .conditioning then
    s.raise .conditioningStart (.departure pos) new.power
  else s

/-- One record is evaluated; a DISABLED or terminal one is not touched (R76). -/
def State.evalDep (s : State) (pos : Nat) : State :=
  match s.deps[pos]? with
  | some d =>
    if d.state.isOpen then (s.setDep pos (s.evaluated pos d)).evalEvent pos d (s.evaluated pos d) else s
  | none => s

/-- Every record is evaluated, in list order (log 11). -/
def State.evalAll (s : State) : State := s.each s.positions State.evalDep

/-- The records of a bus are evaluated, in list order (log 11). -/
def State.evalBus (s : State) (b : BusIx) : State :=
  s.each (s.positions.filter fun p => (s.deps[p]?).any fun d => d.fleet == (s.busEntry b).fleet) State.evalDep

/-! ## Outcomes (R78 to R80) -/

/-- A record ends: its flags clear without an event (R79, R80). -/
def State.endDep (s : State) (pos : Nat) (d : Departure) (st : Readiness) : State :=
  s.setDep pos { d with state := st, short := false, atRisk := false }

/-- The unplug is inside or after the release window of the record (R79). -/
def State.releaseOpen (s : State) (d : Departure) : Bool :=
  match s.curMinute with
  | some m => decide ((s.sdMinute d.minute : Int) - s.params.releaseWindow ≤ s.sdMinute m)
  | none => false

/-- An unplug is judged against the active departure's release window (R79). The next open record is evaluated (R74). -/
def State.unplugOutcome (s : State) (b : BusIx) (i : StallIx) : State :=
  match s.activeOf b with
  | none => s
  | some pos =>
    match s.deps[pos]? with
    | none => s
    | some d =>
      let n := s.needOf b d
      let s1 :=
        if s.releaseOpen d then
          if n = 0 then (s.endDep pos d .departed).raise .departed (.departure pos) i.val
          else (s.endDep pos d .departedShort).raise .departedShort (.departure pos) n
        else s
      s1.evalBus b

/-- The records of a bus are evaluated as they stand while it is at no stall: the active departure returns to SCHEDULED
(R78). A displaced bus has its new stall already when its end is handed on; the start there is evaluated after it. -/
def State.evalAway (s : State) (b : BusIx) : State :=
  { (s.modBus b fun x => { x with stall := none }).evalBus b with buses := s.buses }

/-- An association has ended (R78). ROSTER is dealt with at the FLEET swap (R85). -/
def State.assocEnded (s : State) (b : BusIx) (i : StallIx) (c : EndCause) : State :=
  match c with
  | .unplug => s.unplugOutcome b i
  | .fault | .identity | .displaced | .outOfService => s.evalAway b
  | .roster => s

/-- A record is reached (R80). -/
def State.reachDep (s : State) (pos : Nat) : State :=
  match s.deps[pos]? with
  | none => s
  | some d =>
    if d.state.isOpen then
      match s.rosterIx d.fleet with
      | none => s.endDep pos d .cancelled
      | some b =>
        match s.activeOf b, (s.bus b).stall with
        | some p, some i =>
          if p = pos then (s.endDep pos d .notDeparted).raise .notDeparted (.departure pos) i.val
          else (s.endDep pos d .absent).raise .absent (.departure pos) 0
        | _, _ => (s.endDep pos d .absent).raise .absent (.departure pos) 0
    else s

/-- Every record whose service-day minute satisfies `p` is reached, in list order. -/
def State.reachWhere (s : State) (p : Nat → Bool) : State :=
  s.each (s.positions.filter fun k => (s.deps[k]?).any fun d => p (s.sdMinute d.minute)) State.reachDep

/-! ## The day roll (R72) and moves of the clock (R69, R70) -/

/-- The state of a record just after a day roll (R72). -/
def State.rolledState (s : State) (enabled : Bool) (fleet : Nat) : Readiness :=
  if enabled then (if (s.rosterIx fleet).isSome then .scheduled else .cancelled) else .disabled

/-- The day roll (R72). -/
def State.dayRoll (s : State) : State :=
  { s with deps := s.deps.map fun d =>
      { d with state := s.rolledState d.enabled d.fleet, short := false, atRisk := false } }

/-- The reaching work of a forward move from second `o` to second `n` (R69). -/
def State.forwardMove (s : State) (o n : Nat) : State :=
  let a := s.sdMinute (o / 60)
  let z := s.sdMinute (n / 60)
  if s.sdSecond n < s.sdSecond o then
    ((s.reachWhere fun k => decide (a < k)).dayRoll).reachWhere fun k => decide (k ≤ z)
  else s.reachWhere fun k => decide (a < k) && decide (k ≤ z)

/-- The reaching work of a first setting at second `n`: from the day-roll instant, its minute included (R68, R69). -/
def State.firstSetting (s : State) (n : Nat) : State :=
  let z := s.sdMinute (n / 60)
  s.reachWhere fun k => decide (k ≤ z)

/-! ## AT_RISK (R81) -/

/-- The projected shortfall of a record at risk; none when it is not at risk (R81). -/
def State.riskOf (s : State) (d : Departure) : Option Nat :=
  if d.state = .charging ∨ d.state = .conditioning then
    match s.rosterIx d.fleet, s.deadlineOf d with
    | some b, some t =>
      let g := match (s.bus b).stall with
        | some i => (s.stall i).grant
        | none => 0
      if 0 < t then
        let reached := s.energyOrZero b + g * t.toNat / 6
        if reached < s.targetOf b d then some (s.targetOf b d - reached) else none
      else if 0 < s.needOf b d then some (s.needOf b d)
      else none
    | _, _ => none
  else none

/-- A record's AT_RISK flag is recomputed, with the event of a change (R81). -/
def State.riskDep (s : State) (pos : Nat) : State :=
  match s.deps[pos]? with
  | none => s
  | some d =>
    let s1 := s.setDep pos { d with atRisk := (s.riskOf d).isSome }
    match s.riskOf d, d.atRisk with
    | some n, false => s1.raise .atRisk (.departure pos) n
    | none, true => s1.raise .atRiskCleared (.departure pos) 0
    | _, _ => s1

/-- Every record's AT_RISK flag is recomputed, in list order (log 11). -/
def State.riskAll (s : State) : State := s.each s.positions State.riskDep

/-! ## Protected flags (R82) -/

/-- The stalls whose protected flag is about to change, ascending. -/
def State.protChanges (s : State) : List StallIx := allStalls.filter fun i => (s.stall i).prot != s.protectedNow i

/-- Every stall's protected flag is recomputed (R82). -/
def State.recomputeProt (s : State) : State :=
  { s with stalls := tab fun i => { s.stall i with prot := s.protectedNow i } }

/-! ## The order of the list (R73) -/

/-- The order of R73 as one number: service-day minute, then roster index, then, for a bus not in the roster, fleet
number. -/
def State.depKey (s : State) (d : Departure) : Int :=
  (s.sdMinute d.minute : Int) * 131072 + (match s.rosterIx d.fleet with
    | some b => b.val
    | none => 64 + d.fleet)

def State.sortDeps (s : State) : State := { s with deps := sortByKey s.depKey s.deps }

/-- The record of a SCHEDULE entry just after a day roll (R72, R88). -/
def State.freshDep (s : State) (e : DepEntry) : Departure where
  fleet := e.fleet
  minute := e.minute
  route := e.route
  lead := e.lead
  power := e.power
  enabled := e.enabled != 0#8
  state := s.rolledState (e.enabled != 0#8) e.fleet
  short := false
  atRisk := false

/-- The used entries of the live SCHEDULE set, in index order (R73). -/
def State.usedEntries (s : State) : List DepEntry := s.schedule.live.toList.filter (·.fleet != 0)

end Sys2Proof.Machine
end

