-- ==== Sys2Proof/Machine/Setpoints.lean ====
section
/-! DEFINITION. The Setpoint Path (07): composing, posting and hand-offs; and the setpoint queue (R26, R27). -/

namespace Sys2Proof.Machine

open Sys2Proof

/-! ## The setpoint queue -/

/-- The entry takes the mark and moves to the tail of the reserve group. -/
def placeReserve (q : List SetEntry) (e : SetEntry) : List SetEntry :=
  q.filter (·.reserve) ++ [e] ++ q.filter (fun x => !x.reserve)

/-- A posting for a stall (R26). -/
def postEntry (q : List SetEntry) (i : StallIx) (mark : Bool) : List SetEntry :=
  match q.find? (·.stall == i) with
  | none => if mark then placeReserve q ⟨i, true, false⟩ else q ++ [⟨i, false, false⟩]
  | some e =>
    if mark ∧ ¬ e.reserve then placeReserve (q.filter (·.stall != i)) ⟨i, true, false⟩
    else q.map fun x => if x.stall == i then { x with inFlight := false } else x

/-- A stall is posted: its last-posted second is set and the queue takes the posting (R115, R26). -/
def State.post (s : State) (i : StallIx) (mark : Bool) : State :=
  let s1 := s.modStall i fun x => { x with lastPosted := s.pathSecond }
  { s1 with setQ := postEntry s.setQ i mark }

/-! ## Composing (R112, R115) -/

/-- The setpoint in force computed from a stall's fields (R112). -/
def Stall.composed (x : Stall) : Setpoint where
  charge :=
    if x.occ.isPlugged ∧ x.controller = .allocator ∧ x.handed = 0 then
      match x.cap with
      | some c => min x.grant c
      | none => x.grant
    else 0
  cond := if x.occ.isPlugged then x.condGrant else 0
  dis := x.handed

/-- A recompute: the stall is posted if any of the three values changed (R115). -/
def State.recompute (s : State) (i : StallIx) (mark : Bool) : State :=
  let x := s.stall i
  if x.composed = x.sp then s
  else (s.setStall i { x with sp := x.composed }).post i mark

/-- The controller after a discharge hand-off: new owner, or the owner that ended (R113). -/
def controllerAfter (now : Controller) (owner ended : Option Owner) : Controller :=
  match owner, ended with
  | some .storage, _ => .storage
  | some .reserve, _ => .reserve
  | none, some .storage => .allocator
  | none, _ => now

/-- A discharge hand-off from the Discharge Coordinator (R114). `ended` is the owner whose discharge ended. The
posting is reserve-marked when the new or the ended owner is RESERVE (R115). -/
def State.handDischarge (s : State) (i : StallIx) (ended : Option Owner) : State :=
  let x := s.stall i
  let s1 := s.setStall i { x with
    handed := if x.owner.isSome then x.discharge else 0
    controller := controllerAfter x.controller x.owner ended }
  s1.recompute i (x.owner = some .reserve || ended = some .reserve)

/-- The Reserve Controller takes the stall (R113, R145). -/
def State.reserveTake (s : State) (i : StallIx) : State :=
  (s.modStall i fun x => { x with controller := .reserve }).recompute i true

/-- The Reserve Controller returns the stall (R113, R152). -/
def State.reserveReturn (s : State) (i : StallIx) : State :=
  (s.modStall i fun x => { x with controller := .allocator }).recompute i true

/-! ## Stall sessions (R116, R117), refresh (R118), loss of supervision is in Supervise.lean -/

/-- A stall session begins: recompute, and one unmarked posting in any case (R116). -/
def State.sessionStart (s : State) (i : StallIx) : State :=
  (s.setStall i { s.stall i with sp := (s.stall i).composed }).post i false

/-- A stall session ends (R117). -/
def State.sessionEnd (s : State) (i : StallIx) : State :=
  (s.modStall i fun x =>
    { x with cap := none, lend := true, controller := .allocator, sp := .zero }).post i false

/-- The refresh at a new path second (R118). -/
def State.refresh (s : State) : State :=
  s.each allStalls fun s i =>
    if (s.stall i).occ.isPlugged ∧ 10 ≤ (s.pathSecond + 65536 - (s.stall i).lastPosted) % 65536 then s.post i false
    else s

/-- The path second count advances, and the stalls due are posted (R118). -/
def State.pathTick (s : State) : State := ({ s with pathSecond := (s.pathSecond + 1) % 65536 }).refresh

end Sys2Proof.Machine
end

