-- ==== Sys2Proof/Machine/Discharge.lean ====
section
/-! DEFINITION. The Discharge Coordinator (08): the discharge spread, site storage, re-evaluation of lendable energy
and the limits of a discharge; with the reserve spread of an activation (R147, R148), which re-evaluation calls for. -/

namespace Sys2Proof.Machine

open Sys2Proof

/-! ## Owner and setpoint of a stall's discharge -/

/-- A stall's discharge ends and the change is handed to the Setpoint Path (R127 step 1, R114). -/
def State.endDischarge (s : State) (i : StallIx) : State :=
  let ended := (s.stall i).owner
  (s.modStall i fun x => { x with owner := none, discharge := 0 }).handDischarge i ended

/-- A stall takes an owner and a discharge setpoint, handed to the Setpoint Path (R130). -/
def State.setDischarge (s : State) (i : StallIx) (o : Owner) (kw : Nat) : State :=
  (s.modStall i fun x => { x with owner := some o, discharge := kw }).handDischarge i none

/-- Every discharge of an owner ends, in ascending stall number. -/
def State.endOwned (s : State) (o : Owner) : State :=
  s.each allStalls fun s i => if (s.stall i).owner = some o then s.endDischarge i else s

/-! ## The spread (R129, R130) -/

/-- The candidates of a spread, in the order it visits them (R129). -/
def State.candidates (s : State) (o : Owner) : List StallIx :=
  sortByKey (fun i => -(s.lendableAt i : Int)) <| allStalls.filter fun i =>
    decide (0 < s.lendableAt i) && ((s.stall i).owner == none || (s.stall i).owner == some o) &&
      !(o == .storage && (s.stall i).controller == .reserve)

/-- Discharge of the other owner at a dispenser's stalls. -/
def State.otherOwnerSum (s : State) (o : Owner) (d : DispIx) : Nat :=
  ((stallsOf d).map fun i =>
    if (s.stall i).owner.isSome ∧ (s.stall i).owner ≠ some o then (s.stall i).discharge else 0).sum

/-- What a list of placements puts at one dispenser. -/
def placedAt (ps : List (StallIx × Nat)) (d : DispIx) : Nat :=
  ((ps.filter fun p => dispOf p.1 == d).map (·.2)).sum

/-- Cabinet discharge slack of a dispenser within a spread (R128). -/
def State.cabinetSlack (s : State) (o : Owner) (ps : List (StallIx × Nat)) (d : DispIx) : Nat :=
  (s.eff d).cabinet - s.otherOwnerSum o d - placedAt ps d

/-- The visit of the candidates (R129 step 3): `done` holds the placements made, `left` what remains of the target. -/
def State.placeAll (s : State) (o : Owner) (done : List (StallIx × Nat)) (left : Nat) :
    List StallIx → List (StallIx × Nat) × Nat
  | [] => (done, left)
  | i :: is =>
    let kw := min (min (s.disCapacity i) (s.cabinetSlack o done (dispOf i))) left
    s.placeAll o (done ++ [(i, kw)]) (left - kw) is

/-- The amount placed at a stall. -/
def placedFor (ps : List (StallIx × Nat)) (i : StallIx) : Nat :=
  match ps.find? (·.1 == i) with
  | some p => p.2
  | none => 0

/-- A spread's result is applied: ends first, then placements in the order of the visit (R130). -/
def State.applySpread (s : State) (o : Owner) (ps : List (StallIx × Nat)) : State :=
  let s1 := s.each allStalls fun s i =>
    if (s.stall i).owner = some o ∧ placedFor ps i = 0 then s.endDischarge i else s
  s1.each ps fun s p =>
    if p.2 = 0 ∨ ((s.stall p.1).owner = some o ∧ (s.stall p.1).discharge = p.2) then s
    else s.setDischarge p.1 o p.2

/-- The discharge spread for an owner with a target: the state after it, the placed total and the shortfall. -/
def State.spread (s : State) (o : Owner) (target : Nat) : State × Nat × Nat :=
  let r := s.placeAll o [] target (s.candidates o)
  (s.applySpread o r.1, (r.1.map (·.2)).sum, r.2)

/-! ## The reserve spread of an activation (R147, R148) -/

def State.modAct (s : State) (f : Activation → Activation) : State :=
  { s with reserve := { s.reserve with act := s.reserve.act.map f } }

/-- A reserve spread with target max(0, Q − curtailed) while the reserve is ACTIVE; a shortfall above 0 and greater
than the one recorded raises RESERVE_SHORTFALL (R148), its subject index the activation's window index (log 33). In
other states it has no effect. -/
def State.reserveSpread (s : State) : State :=
  match s.reserve.state, s.reserve.act with
  | .active, some a =>
    let r := s.spread .reserve (a.target - a.curtailed)
    let s1 := r.1.modAct fun a => { a with placed := r.2.1, shortfall := r.2.2 }
    if 0 < r.2.2 ∧ a.shortfall < r.2.2 then s1.raise .reserveShortfall (.reserve a.windowIx.val) r.2.2 else s1
  | _, _ => s

/-! ## Site storage (R132 to R135) -/

/-- A storage spread: target, placed total and shortfall are recorded (R130). -/
def State.storageSpread (s : State) (x : Nat) : State :=
  let r := s.spread .storage x
  { r.1 with storage := { r.1.storage with target := some x, placed := r.2.1, shortfall := r.2.2 } }

def State.setStorage (s : State) (st : StorageState) : State :=
  { s with storage := { s.storage with state := st, target := none } }

/-- The conditions that inhibit storage (R132). -/
def State.storageInhibited (s : State) : Bool :=
  !s.params.storageEnable || !s.site.fresh || s.reserve.state == .active || s.reserve.state == .recovery

/-- The three conditions are examined (R132). -/
def State.examineStorage (s : State) : State :=
  if s.storageInhibited then
    match s.storage.state with
    | .inhibited => s
    | .idle => s.setStorage .inhibited
    | .shaving => ((s.endOwned .storage).setStorage .inhibited).raise .shaveEnd .part 2
  else
    match s.storage.state with
    | .inhibited => s.setStorage .idle
    | _ => s

/-- The holdback test while SHAVING; a failure ends every storage discharge (R135). -/
def State.testHoldback (s : State) : State :=
  if s.storage.state = .shaving ∧ ¬ s.holdbackPermits then
    ((s.endOwned .storage).setStorage .idle).raise .storageLimit .part s.pool
  else s

/-- A spread made in SHAVING; with nothing placed storage becomes IDLE (R134). -/
def State.respreadStorage (s : State) (x : Nat) : State :=
  let s1 := s.storageSpread x
  if s1.storage.placed = 0 then (s1.setStorage .idle).raise .shaveEnd .part 1 else s1

/-- A storage discharge has been ended or lowered by the Coordinator while SHAVING (R134). -/
def State.storageEnded (s : State) : State :=
  let s1 := s.testHoldback
  if s1.storage.state = .shaving then s1.respreadStorage (s1.storage.target.getD 0) else s1

/-- The shave target X (R133). -/
def State.shaveTarget (s : State) : Nat :=
  s.loadInUse + s.sumStalls (·.sp.charge) + s.sumStalls (·.sp.cond) - s.importCeiling

/-- Storage at a sample taken, in IDLE (R133) and in SHAVING (R134). -/
def State.storageSample (s : State) : State :=
  match s.storage.state with
  | .inhibited => s
  | .idle =>
    let x := s.shaveTarget
    if s.params.shaveThreshold ≤ x ∧ s.holdbackPermits then
      let s1 := s.storageSpread x
      if 0 < s1.storage.placed then
        ({ s1 with storage := { s1.storage with state := .shaving } }).raise .shaveStart .part x
      else s1
    else s
  | .shaving =>
    let s1 := s.testHoldback
    if s1.storage.state = .shaving then
      let x := s1.shaveTarget
      let held := s1.storage.target.getD 0
      if x = 0 then ((s1.endOwned .storage).setStorage .idle).raise .shaveEnd .part 0
      else if held + s1.params.shaveThreshold ≤ x ∨ x + s1.params.shaveThreshold ≤ held then s1.respreadStorage x
      else s1
    else s1

/-! ## Re-evaluation (R126, R127) -/

/-- The response to a discharge that must end: it ends; a RESERVE one is spread for again, a STORAGE one is dealt with
under R134 (R127 steps 1 to 3). -/
def State.dropDischarge (s : State) (i : StallIx) : State :=
  match (s.stall i).owner with
  | none => s
  | some .reserve => (s.endDischarge i).reserveSpread
  | some .storage => (s.endDischarge i).storageEnded

/-- A bus's lendable energy is re-evaluated (R126): at 0 the discharge at its stall ends (R127), a figure risen from 0
is handed to the Reserve Controller (R148), and a changed pool is tested against the holdback while SHAVING (R135). -/
def State.reeval (s : State) (b : BusIx) : State :=
  let old := (s.bus b).lendable
  let new := s.lendableNow b
  let s1 := s.modBus b fun x => { x with lendable := new }
  let s2 :=
    match (s.bus b).stall with
    | none => s1
    | some i => if new = 0 then s1.dropDischarge i else if old = 0 then s1.reserveSpread else s1
  if new = old then s2 else s2.testHoldback

/-- Re-evaluation of every bus, in ascending roster index (log 11). -/
def State.reevalAll (s : State) : State := s.each allBuses State.reeval

/-! ## Falling limits (R131) -/

/-- A stall's discharge setpoint under its capacity (R131 step 1). -/
def State.underCapacity (s : State) (i : StallIx) : Nat := min (s.stall i).discharge (s.disCapacity i)

/-- The discharge a stall keeps under R131: under its capacity, and the port 1 stall lowered first by what exceeds the
cabinet, then port 0. -/
def State.limitedDischarge (s : State) (i : StallIx) : Nat :=
  let d := dispOf i
  let p0 := s.underCapacity (stallAt d 0)
  let p1 := s.underCapacity (stallAt d 1)
  let excess := p0 + p1 - (s.eff d).cabinet
  if portOf i = 1 then p1 - excess else p0 - (excess - p1)

/-- The stalls of the dispensers concerned whose discharge is above its limits, with what each keeps. -/
def State.overLimit (s : State) (ds : List DispIx) : List (StallIx × Nat) :=
  (ds.flatMap stallsOf).filterMap fun i =>
    if (s.stall i).owner.isSome ∧ s.limitedDischarge i < (s.stall i).discharge then some (i, s.limitedDischarge i)
    else none

/-- A stall's discharge is lowered, or ended at 0 (R131 step 3). -/
def State.lowerDischarge (s : State) (p : StallIx × Nat) : State :=
  if p.2 = 0 then s.endDischarge p.1
  else (s.modStall p.1 fun x => { x with discharge := p.2 }).handDischarge p.1 none

/-- The limits of the discharges at some dispensers are checked (R131). -/
def State.checkLimits (s : State) (ds : List DispIx) : State :=
  let above := s.overLimit ds
  let s1 := s.each above State.lowerDischarge
  let s2 := s1.each (above.filter fun p => (s.stall p.1).owner = some .reserve) fun s _ => s.reserveSpread
  if above.any fun p => (s.stall p.1).owner == some .storage then s2.storageEnded else s2

end Sys2Proof.Machine
end

