-- ==== Sys2Proof/Machine/Reserve.lean ====
section
/-! DEFINITION. The Reserve Controller (09): arming, triggers, activation, its adjustments, its end. -/

namespace Sys2Proof.Machine

open Sys2Proof

def State.setReserve (s : State) (st : ReserveState) : State := { s with reserve := { s.reserve with state := st } }

/-- The window's index as a subject index, 0 for none. -/
def winSubject (w : Option WinIx) : Subject := .reserve ((w.map (·.val)).getD 0)

/-! ## Arming (R139) -/

/-- The state the arming evaluation finds (R139). -/
def State.armingState (s : State) (w : Option WinIx) : ReserveState :=
  match w with
  | none => .disarmed
  | some i =>
    let e := s.winEntry i
    if s.pool < e.holdback ∨ s.curtailable + s.dischargeable < e.power then .armedShort else .armed

/-- The event of a change found by the arming evaluation (R139): RESERVE_DISARMED only from ARMED or ARMED_SHORT. -/
def State.armingEvent (s : State) (old : ReserveState) (oldWin w : Option WinIx) (new : ReserveState) : State :=
  match new, w with
  | .armed, some i => s.raise .reserveArmed (winSubject w) (s.winEntry i).power
  | .armedShort, some i =>
    s.raise .reserveShort (winSubject w) ((s.winEntry i).power - (s.curtailable + s.dischargeable) : Nat)
  | .disarmed, _ =>
    if old = .armed ∨ old = .armedShort then s.raise .reserveDisarmed (winSubject oldWin) 0 else s
  | _, _ => s

/-- The arming evaluation: state, current window, event, and the hand-off to the Discharge Coordinator, which examines
its conditions (R132) and tests the holdback (R135). -/
def State.armingEval (s : State) : State :=
  let w := s.windowInForce
  let new := s.armingState w
  if new = s.reserve.state ∧ w = s.reserve.window then s
  else
    let s1 := { s with reserve := { s.reserve with state := new, window := w } }
    ((s1.armingEvent s.reserve.state s.reserve.window w new).examineStorage).testHoldback

/-! ## Taking and returning stalls -/

def State.setHeld (s : State) (h : List (StallIx × Nat)) : State := { s with reserve := { s.reserve with held := h } }

/-- An entry joins the held list, which is kept in ascending stall number. -/
def joinHeld (h : List (StallIx × Nat)) (e : StallIx × Nat) : List (StallIx × Nat) :=
  insertByKey (fun p => (p.1.val : Int)) e h

def State.isHeld (s : State) (i : StallIx) : Bool := s.reserve.held.any (·.1 == i)

/-! ## Activation (R144, R145) -/

/-- The stalls an activation takes, with their charge setpoints in force (R144 step 4). -/
def State.stallsToTake (s : State) : List (StallIx × Nat) :=
  (allStalls.filter fun i => (s.stall i).occ.isPlugged && !(s.stall i).prot).map fun i => (i, (s.stall i).sp.charge)

/-- The record an activation fills in, read before anything is changed (R144). -/
def State.newActivation (s : State) (t : Trigger) (id : Option Nat) (q : Nat) (w : WinIx) : Activation where
  trigger := t
  requestId := id
  target := q
  window := s.winEntry w
  windowIx := w
  baseline := s.fleetPower
  start := s.clock.getD 0
  elapsed := 0
  frozen := s.sumStalls fun x => if x.prot then x.sp.charge else 0
  curtailed := (s.stallsToTake.map (·.2)).sum
  placed := 0
  shortfall := 0
  delivered := none
  tripSeen := false
  ended := none

/-- R144: the record and the held list are filled in and the state becomes ACTIVE. -/
def State.fillActivation (s : State) (t : Trigger) (id : Option Nat) (q : Nat) (w : WinIx) : State :=
  { s with reserve := { s.reserve with
      state := .active
      act := some (s.newActivation t id q w)
      held := s.stallsToTake } }

/-- R145 step 3: the spread for what curtailment leaves uncovered. -/
def State.activationSpread (s : State) (a : Activation) : State × Nat :=
  if a.curtailed < a.target then
    let r := s.spread .reserve (a.target - a.curtailed)
    (r.1.modAct fun a => { a with placed := r.2.1, shortfall := r.2.2 }, r.2.2)
  else (s, 0)

/-- An activation (R144, R145). -/
def State.activate (s : State) (t : Trigger) (id : Option Nat) (q : Nat) (w : WinIx) : State :=
  let a := s.newActivation t id q w
  let s1 := (s.fillActivation t id q w).examineStorage
  let s2 := s1.each (s.stallsToTake.map (·.1)) State.reserveTake
  let r := s2.activationSpread a
  let s3 := r.1.raise .reserveActive (.reserve w.val) q
  if 0 < r.2 then s3.raise .reserveShortfall (.reserve w.val) r.2 else s3

/-! ## Adjustments while ACTIVE (R147 to R150) -/

/-- A re-target (R147). The subject index is the activation's window index (log 33). -/
def State.retarget (s : State) (q : Nat) : State :=
  match s.reserve.act with
  | some a =>
    ((s.modAct fun a => { a with target := q }).raise .reserveRetarget (.reserve a.windowIx.val) q).reserveSpread
  | none => s

/-- A stall's protected flag has changed (R149, third and fourth cases). -/
def State.reserveProtected (s : State) (i : StallIx) : State :=
  if s.reserve.state = .active then
    let x := s.stall i
    if x.prot then
      match s.reserve.held.find? (·.1 == i) with
      | some e =>
        (((s.setHeld (s.reserve.held.filter (·.1 != i))).modAct
          fun a => { a with curtailed := a.curtailed - e.2 }).reserveReturn i).reserveSpread
      | none => s
    else if x.occ.isPlugged ∧ ¬ s.isHeld i then
      (((s.setHeld (joinHeld s.reserve.held (i, x.sp.charge))).modAct
        fun a => { a with curtailed := a.curtailed + x.sp.charge }).reserveTake i).reserveSpread
    else s
  else s

/-- A stall session begins (R149, first case). -/
def State.reserveSessionBegins (s : State) (i : StallIx) : State :=
  if s.reserve.state = .active ∧ ¬ (s.stall i).prot ∧ ¬ s.isHeld i then
    (s.setHeld (joinHeld s.reserve.held (i, 0))).reserveTake i
  else s

/-- A stall session ends (R149, second case). -/
def State.reserveSessionEnds (s : State) (i : StallIx) : State :=
  if s.reserve.state = .active then s.setHeld (s.reserve.held.filter (·.1 != i)) else s

/-- A progress report at `elapsed` seconds (R150). The subject index is the activation's window index (log 33). -/
def State.progress (s : State) (elapsed : Nat) : State :=
  match s.reserve.act with
  | some a =>
    let d := a.baseline - s.fleetPower
    (s.modAct fun a => { a with elapsed := elapsed, delivered := some d }).raise .reserveProgress
      (.reserve a.windowIx.val) d
  | none => s

/-! ## End (R151, R152) -/

/-- The code of an end cause in RESERVE_END (R152). -/
def ActEnd.code : ActEnd → Nat
  | .release => 1
  | .limit => 2
  | .windowEnd => 3
  | .restore => 4

/-- The activation ends (R152). -/
def State.endActivation (s : State) (c : ActEnd) : State :=
  let held := s.reserve.held
  let s1 := (s.each (held.map (·.1)) State.reserveReturn).setHeld []
  let s2 := s1.endOwned .reserve
  let s3 := { s2 with alloc := { s2.alloc with ramp := s2.sumStalls (·.sp.charge) } }
  let s4 := ((s3.modAct fun a => { a with ended := some c }).setReserve .recovery).examineStorage
  match s4.reserve.act with
  | some a => s4.raise .reserveEnd (.reserve a.windowIx.val) c.code
  | none => s4

/-! ## Triggers (R141 to R143) -/

def State.refuseDispatch (s : State) (reason : Nat) : State := s.raise .dispatchRefused (.reserve 0) reason

/-- A DISPATCH ACTIVATE (R141). -/
def State.dispatchActivate (s : State) (id power : Nat) : State :=
  if power = 0 then s.refuseDispatch 2
  else
    match s.reserve.state with
    | .disarmed => s.refuseDispatch 1
    | .armed | .armedShort =>
      match s.reserve.window with
      | some w => s.activate .dispatch (some id) (min power (s.winEntry w).power) w
      | none => s.refuseDispatch 1
    | .active =>
      match s.reserve.act with
      | some a =>
        let s1 := if a.requestId = some id then s
          else s.modAct fun a => { a with requestId := some id, trigger := .dispatch }
        s1.retarget (min power a.window.power)
      | none => s
    | .recovery =>
      match s.windowInForce with
      | some w => s.activate .dispatch (some id) (min power (s.winEntry w).power) w
      | none => s.refuseDispatch 1

/-- A DISPATCH RELEASE (R142). -/
def State.dispatchRelease (s : State) (id : Nat) : State :=
  match s.reserve.state, s.reserve.act with
  | .active, some a => if a.requestId = some id then s.endActivation .release else s.refuseDispatch 3
  | .active, none => s.refuseDispatch 3
  | _, _ => s.refuseDispatch 4

/-- A frequency trip starts an activation under a window whose frequency trigger is enabled (R143). -/
def State.tripIn (s : State) (w : Option WinIx) : State :=
  match w with
  | some i =>
    if (s.winEntry i).freqTrigger then s.activate .frequency none (s.winEntry i).power i else s
  | none => s

/-- A frequency trip (R143). -/
def State.frequencyTrip (s : State) : State :=
  match s.reserve.state with
  | .armed | .armedShort => s.tripIn s.reserve.window
  | .active => s.modAct fun a => { a with tripSeen := true }
  | .recovery => s.tripIn s.windowInForce
  | .disarmed => s

/-- A frequency restore (R143). -/
def State.frequencyRestore (s : State) : State :=
  match s.reserve.state, s.reserve.act with
  | .active, some a => if a.trigger = .frequency then s.endActivation .restore else s
  | _, _ => s

/-- A minute tick or SET TIME handed to the Reserve Controller (R139, R151). -/
def State.reserveTime (s : State) : State :=
  match s.reserve.state, s.reserve.act with
  | .disarmed, _ | .armed, _ | .armedShort, _ => s.armingEval
  | .active, some a => if s.minuteIn a.window then s else s.endActivation .windowEnd
  | _, _ => s

end Sys2Proof.Machine
end

