-- ==== Sys2Proof/Machine/Handoff.lean ====
section
/-! DEFINITION. The hand-offs of the Session Table: one pass through the Readiness Tracker, the Discharge Coordinator,
the Reserve Controller and the Setpoint Path, in the order of R38 step 5 and R83. -/

namespace Sys2Proof.Machine

open Sys2Proof

/-- An association that ended, with its cause (R47). -/
structure Ended where
  bus   : BusIx
  stall : StallIx
  cause : EndCause
  deriving DecidableEq, Repr

/-- What the Session Table hands on about one stall. -/
structure Handed where
  stall     : StallIx
  ended     : List Ended
  /-- The Tracker evaluates this bus: its association began or its estimate changed. -/
  evaluate  : List BusIx
  /-- The Coordinator re-evaluates these after the buses of `ended`. -/
  touched   : List BusIx
  began     : Bool
  unplugged : Bool
  deriving DecidableEq, Repr

/-- The causes after which a stall session continues and the discharge there still ends (R127). -/
def EndCause.continues : EndCause → Bool
  | .identity | .displaced | .roster => true
  | .unplug | .fault | .outOfService => false

/-- Readiness Tracker: the associations that ended, in the order they ended, then the buses to evaluate (R78, R76). The
spec gives no order among several: the model's choice (log 11). -/
def State.trackerHears (s : State) (h : Handed) : State :=
  (s.each h.ended fun s e => s.assocEnded e.bus e.stall e.cause).each h.evaluate State.evalBus

/-- Discharge Coordinator: discharges whose ground has gone end, then lendable energy is re-evaluated (R38, R127). Of
several, the discharge of the stall session that ended comes first, then those of the ended associations in the order
they ended; the buses are re-evaluated in that order, the bus taken or touched by the record last. The spec gives no
order among them: the model's choice (log 11). -/
def State.coordinatorHears (s : State) (h : Handed) : State :=
  let s1 := if h.unplugged then s.dropDischarge h.stall else s
  let s2 := s1.each (h.ended.filter fun e => e.cause.continues) fun s e => s.dropDischarge e.stall
  s2.each (h.ended.map (·.bus) ++ h.touched) State.reeval

/-- Reserve Controller: protection changes (R83), then the stall session that ended or began (R38, R149). -/
def State.reserveHears (s : State) (h : Handed) (changed : List StallIx) : State :=
  let s1 := s.each changed State.reserveProtected
  let s2 := if h.unplugged then s1.reserveSessionEnds h.stall else s1
  if h.began then s2.reserveSessionBegins h.stall else s2

/-- Setpoint Path: the stall session that ended or began (R116, R117). -/
def State.pathHears (s : State) (h : Handed) : State :=
  let s1 := if h.unplugged then s.sessionEnd h.stall else s
  if h.began then s1.sessionStart h.stall else s1

/-- One pass of hand-offs (R38 step 5, R83; log 11). -/
def State.handOff (s : State) (h : Handed) : State :=
  let s1 := s.trackerHears h
  ((s1.recomputeProt.coordinatorHears h).reserveHears h s1.protChanges).pathHears h

/-- The hand-offs of the Readiness Tracker on its own, after it has acted on all buses (R83). -/
def State.trackerDone (s : State) (reevaluate : State → State) : State :=
  (reevaluate s.recomputeProt).each s.protChanges State.reserveProtected

end Sys2Proof.Machine
end

