-- ==== Sys2Proof/Machine/Sessions.lean ====
section
/-! DEFINITION. The Session Table (03): a port record, from freshness to its hand-offs. -/

namespace Sys2Proof.Machine

open Sys2Proof

/-- A port record's fields (3.3). A fleet number of 0 and a SoC above 1000 stand for absent (R38). -/
structure PortRecord where
  plugged : Bool
  fleet   : Nat
  soc     : Nat
  power   : Int
  counter : Int
  fault   : Nat
  deriving DecidableEq, Repr

def PortRecord.fleetNo (r : PortRecord) : Option Nat := if r.fleet = 0 then none else some r.fleet
def PortRecord.socValue (r : PortRecord) : Option Nat := if r.soc ≤ 1000 then some r.soc else none

/-! ## Associations -/

/-- An association ends: steps 1 to 3 of R47. The hand-off of step 4 is made with the others. -/
def State.endAssoc (s : State) (b : BusIx) (i : StallIx) : State :=
  (s.modBus b fun x => { x with stall := none, carried := if x.energy.isSome then true else x.carried }).modStall i
    fun x => { x with bus := none, baseline := none, residue := 0 }

/-- A stall takes a bus, with PLUG or, from another stall, BUS_MOVED (R44). -/
def State.takeBus (s : State) (i : StallIx) (b : BusIx) (old : Option StallIx) : State :=
  let s1 := (s.modBus b fun x => { x with stall := some i }).modStall i
    fun x => { x with occ := .session, bus := some b, partner := none }
  match old with
  | none => s1.raise .plug (.stall i) b.val
  | some t => s1.raise .busMoved (.stall i) t.val

/-- What settling the occupancy brought about: the state, the associations that ended, and the bus taken. -/
structure Settled where
  state : State
  ended : List Ended
  took  : Option BusIx

/-- The stall's own association ends with a cause, if it has one. -/
def Settled.drop (r : Settled) (i : StallIx) (c : EndCause) : Settled :=
  match (r.state.stall i).bus with
  | some b => ⟨r.state.endAssoc b i, r.ended ++ [⟨b, i, c⟩], r.took⟩
  | none => r

/-- The stall takes an occupancy that has no bus and no partner. -/
def Settled.become (r : Settled) (i : StallIx) (o : Occupancy) : Settled :=
  { r with state := r.state.modStall i fun x => { x with occ := o, partner := none } }

/-- The stall takes the bus (R44), displacing another stall where there is one (R45). -/
def Settled.take (r : Settled) (i : StallIx) (b : BusIx) : Settled :=
  match (r.state.bus b).stall with
  | none => ⟨r.state.takeBus i b none, r.ended, some b⟩
  | some t =>
    let s1 := (r.state.endAssoc b t).modStall t fun x => { x with occ := .unidentified }
    ⟨s1.takeBus i b (some t), r.ended ++ [⟨b, t, .displaced⟩], some b⟩

/-- The stall becomes CONFLICT with a partner; BUS_CONFLICT unless it was so already (R45). -/
def Settled.conflict (r : Settled) (i t : StallIx) : Settled :=
  let x := r.state.stall i
  let s1 := r.state.modStall i fun x => { x with occ := .conflict, partner := some t }
  { r with state := if x.occ = .conflict ∧ x.partner = some t then s1 else s1.raise .busConflict (.stall i) t.val }

/-- A rostered bus is reported at a stall that does not hold it (R43 to R46). -/
def Settled.claim (r : Settled) (i : StallIx) (b : BusIx) : Settled :=
  match (r.state.bus b).stall with
  | none => r.take i b
  | some t => if (r.state.stall t).fresh = .fresh then r.conflict i t else r.take i b

/-- A PLUGGED record with fault code 0 (R43). `oldNo` is the fleet number reported before it. -/
def Settled.plugged (r : Settled) (i : StallIx) (no oldNo : Option Nat) : Settled :=
  let x := r.state.stall i
  match no with
  | none => if x.occ = .session then r else r.become i .unidentified
  | some n =>
    match r.state.rosterIx n with
    | none =>
      let r1 := (r.drop i .identity).become i .guest
      if x.occ = .guest ∧ oldNo = some n then r1
      else { r1 with state := r1.state.raise .busUnknown (.stall i) 0 }
    | some b => if x.occ = .session ∧ x.bus = some b then r else (r.drop i .identity).claim i b

/-- Leaving a plugged occupancy, or FAULTED, for VACANT (R42). -/
def State.clearPlug (s : State) (i : StallIx) : State :=
  s.modStall i fun x =>
    { x with occ := .vacant, baseline := none, residue := 0, fleetNo := none, partner := none }

/-- An UNPLUGGED record with fault code 0 (R42). -/
def Settled.unplugged (r : Settled) (i : StallIx) : Settled :=
  let x := r.state.stall i
  match x.occ with
  | .vacant => r
  | .session =>
    let r1 := r.drop i .unplug
    let p : Int := match x.bus with
      | some b => b.val
      | none => -1
    { r1 with state := (r1.state.clearPlug i).raise .unplug (.stall i) p }
  | .unidentified | .guest | .conflict => { r with state := (r.state.clearPlug i).raise .unplug (.stall i) (-1) }
  | .faulted => r.become i .vacant

/-- A non-zero fault code (R41). -/
def Settled.faultCode (r : Settled) (i : StallIx) (code oldCode : Nat) : Settled :=
  let x := r.state.stall i
  let raised (q : Settled) : Settled := { q with state := q.state.raise .stallFault (.stall i) code }
  if x.occ = .faulted then (if code = oldCode then r else raised r)
  else
    let r1 := r.drop i .fault
    raised { r1 with state := r1.state.modStall i fun x =>
      { x with occ := .faulted, baseline := none, residue := 0, partner := none } }

/-- Code 0 at a FAULTED stall: the fault clears and the stall is settled as though it had been VACANT (R41). -/
def Settled.faultCleared (r : Settled) (i : StallIx) (oldCode : Nat) : Settled :=
  ({ r with state := r.state.raise .stallFaultCleared (.stall i) oldCode }).become i .vacant

/-- Step 3 of R38. `old` is the stall as it stood before step 2. -/
def State.settle (s : State) (i : StallIx) (rec : PortRecord) (old : Stall) : Settled :=
  let r : Settled := ⟨s, [], none⟩
  if rec.fault ≠ 0 then r.faultCode i rec.fault old.fault
  else
    let r1 := if old.occ = .faulted then r.faultCleared i old.fault else r
    if rec.plugged then r1.plugged i rec.fleetNo old.fleetNo else r1.unplugged i

/-! ## The energy estimate (R48 to R51) -/

def State.setEnergy (s : State) (b : BusIx) (e : Option Nat) (carried : Bool) : State :=
  s.modBus b fun x => { x with energy := e, carried := carried }

/-- The baseline moves to a record's counter, with a residue (R49 to R51). -/
def State.setBaseline (s : State) (i : StallIx) (counter residue : Int) : State :=
  s.modStall i fun x => { x with baseline := some counter, residue := residue }

/-- The change of an estimate by Δ Wh: the clamped estimate and the residue kept (R51 step 2, R48). -/
def stepEstimate (cap e : Nat) (delta : Int) : Nat × Int :=
  let moved := (e : Int) + delta.tdiv 100
  let held := clampInt 0 cap moved
  (held.toNat, if held = moved then delta - 100 * delta.tdiv 100 else 0)

/-- A later record of an association without a SoC (R51). -/
def State.countEstimate (s : State) (i : StallIx) (b : BusIx) (counter : Int) : State :=
  let x := s.stall i
  let d := counter - x.baseline.getD counter
  if 100 * (s.capacity b : Int) < d.natAbs then
    ((s.modBus b fun y => { y with energy := none }).setBaseline i counter 0).raise .counterJump (.stall i) b.val
  else
    match (s.bus b).energy with
    | none => s.setBaseline i counter 0
    | some e =>
      let r := stepEstimate (s.capacity b) e (d + x.residue)
      (s.modBus b fun y => { y with energy := some r.1 }).setBaseline i counter r.2

/-- Step 4 of R38. `first` says that the stall took the bus at this record. -/
def State.estimate (s : State) (i : StallIx) (b : BusIx) (rec : PortRecord) (first : Bool) : State :=
  match rec.socValue with
  | some soc =>
    (s.setEnergy b (some (min (s.capacity b) ((soc * s.capacity b + 500) / 1000))) false).setBaseline i rec.counter 0
  | none =>
    if first then
      let x := s.bus b
      (if x.carried then s.setEnergy b none false else s).setBaseline i rec.counter 0
    else s.countEstimate i b rec.counter

/-- The counter of a plugged stall outside SESSION only moves the baseline (R43, R51). -/
def State.keepBaseline (s : State) (i : StallIx) (rec : PortRecord) : State :=
  if (s.stall i).occ.isPlugged then s.setBaseline i rec.counter 0 else s

/-- Step 4 for a stall in SESSION; outside it the baseline is kept. -/
def State.estimateStep (s : State) (i : StallIx) (rec : PortRecord) (first : Bool) : State :=
  match (s.stall i).bus with
  | some b => s.estimate i b rec first
  | none => s.keepBaseline i rec

/-! ## A port record (R38) -/

/-- Steps 1 and 2: freshness and age with STALL_FRESH (R39), and the stored fields. -/
def State.storeRecord (s : State) (i : StallIx) (rec : PortRecord) : State :=
  let x := s.stall i
  let s1 := s.modStall i fun x => { x with fresh := .fresh, age := 0 }
  let s2 := if x.fresh = .stale ∨ x.fresh = .unreachable then s1.raise .stallFresh (.stall i) x.age else s1
  s2.modStall i fun x =>
    { x with plugged := rec.plugged, fleetNo := rec.fleetNo, power := rec.power, fault := rec.fault }

/-- A port record addressed to a stall (R38). -/
def State.portRecord (s : State) (i : StallIx) (rec : PortRecord) : State :=
  let old := s.stall i
  if old.inService then
    let r := (s.storeRecord i rec).settle i rec old
    let s1 := r.state
    let s2 := s1.estimateStep i rec r.took.isSome
    let bus := (s2.stall i).bus.toList
    s2.handOff {
      stall := i
      ended := r.ended
      evaluate := bus.filter fun b => r.took == some b || (s2.bus b).energy != (s1.bus b).energy
      touched := bus.filter fun b => r.took == some b || (s2.bus b).energy != (s1.bus b).energy || old.fresh != .fresh
      began := !old.occ.isPlugged && (s2.stall i).occ.isPlugged
      unplugged := old.occ.isPlugged && !(s2.stall i).occ.isPlugged }
  else s

/-! ## Ages (R40) -/

/-- An age threshold is reached: the freshness moves, with its event, and a bus in SESSION there is re-evaluated. -/
def State.ageReached (s : State) (i : StallIx) (age : Nat) (f : Freshness) (k : EventKind) : State :=
  let s1 := (s.modStall i fun x => { x with age := age, fresh := f }).raise k (.stall i) 0
  s1.each (s.stall i).bus.toList State.reeval

/-- The age of a FRESH stall reaches 5 s (R40). -/
def State.staleAge (s : State) (i : StallIx) : State :=
  if (s.stall i).fresh = .fresh then s.ageReached i 5 .stale .stallStale else s

/-- The age of a STALE stall reaches 30 s (R40). -/
def State.unreachableAge (s : State) (i : StallIx) : State :=
  if (s.stall i).fresh = .stale then s.ageReached i 30 .unreachable .stallUnreachable else s

/-! ## Leaving service (R5) -/

/-- A stall moves from IN_SERVICE to OUT_OF_SERVICE (R5): its occupancy ends without UNPLUG and it becomes VACANT with
freshness NONE. Its reported fleet number clears and its age becomes 0 from every occupancy (log 35). -/
def State.leaveService (s : State) (i : StallIx) : State :=
  let x := s.stall i
  let r := (⟨s, [], none⟩ : Settled).drop i .outOfService
  let s1 := (r.state.clearPlug i).modStall i fun x => { x with fresh := .none, age := 0 }
  if x.occ.isPlugged then
    s1.handOff { stall := i, ended := r.ended, evaluate := [], touched := [], began := false, unplugged := true }
  else s1

/-- A stall moves from OUT_OF_SERVICE to IN_SERVICE: VACANT with freshness NONE (R5). -/
def State.enterService (s : State) (i : StallIx) : State :=
  s.modStall i fun x => { x with occ := .vacant, fresh := .none, age := 0 }

end Sys2Proof.Machine
end

