-- ==== Sys2Proof/Machine/Plant.lean ====
section
/-! DEFINITION. The Plant Map (R3 to R6) and the census (R7 to R12). -/

namespace Sys2Proof.Machine

open Sys2Proof

/-! ## Service status (R4, R5) -/

/-- The service status of every stall is re-derived and each change is acted on, in ascending stall number (R4, R5). -/
def State.reService (s : State) : State :=
  let changed := allStalls.filter fun i => (s.stall i).inService != s.serviceOf i
  let s1 := { s with stalls := tab fun i => { s.stall i with inService := s.serviceOf i } }
  s1.each changed fun t i => if (s.stall i).inService then t.leaveService i else t.enterService i

/-- The PRESENT count has risen from 0: both silence timers restart (R30). -/
def State.presentRose (s : State) (before : Nat) : State :=
  if before = 0 ∧ 0 < s.presentCount then
    { s with lineA := { s.lineA with silence := 0 }, lineB := { s.lineB with silence := 0 } }
  else s

/-- Something at a dispenser changed: service status, then the lending of the buses at its stalls (R126), then the
limits of its discharges (R131). -/
def State.plantChanged (s : State) (d : DispIx) : State :=
  let s1 := s.reService
  (s1.each ((stallsOf d).filterMap fun i => (s1.stall i).bus) State.reeval).checkLimits [d]

/-! ## The census (R7 to R11) -/

def State.isListed (s : State) (d : DispIx) : Bool := (s.pres d).presence != .unlisted

/-- The census ends (R11). -/
def State.endCensus (s : State) : State :=
  ({ s with census := { s.census with running := false, probe := none, outstanding := false } }).raise .censusDone .part
    s.presentCount

/-- The address under probe becomes an address, or past the last one the census ends (R7, R9 step 6). -/
def State.probeNext (s : State) (d : Option DispIx) : State :=
  match d with
  | some a => { s with census := { s.census with probe := some a } }
  | none => s.endCensus

/-- The census starts (R7). -/
def State.startCensus (s : State) : State :=
  let s1 := { s with
    presence := tab fun d => if s.isListed d then { s.pres d with miss := 0 } else s.pres d
    census := { s.census with running := true, outstanding := false, unlistedSeen := Vector.replicate 24 false } }
  s1.probeNext (lowestAbove s1.isListed none)

/-- The address under probe advances (R9 step 6). -/
def State.advanceCensus (s : State) : State := s.probeNext (lowestAbove s.isListed s.census.probe)

/-- The code of the first difference between a report and the live entry (R9 step 5). -/
def mismatchCode (r : Report) (e : Dispenser) : Option Nat :=
  if r.ports ≠ e.ports then some 4
  else if r.cabinet ≠ e.cabinet then some 1
  else if r.port0 ≠ e.port0 then some 2
  else if e.ports = 2 ∧ r.ports = 2 ∧ r.port1 ≠ e.port1 then some 3
  else if r.discharge ≠ e.discharge then some 5
  else none

/-- The values of a report after the clamps of R9. -/
def Report.clamped (r : Report) : Report :=
  { r with cabinet := min 400 r.cabinet, port0 := min 250 r.port0, port1 := min 250 r.port1 }

/-- A valid report is applied to the address under probe (R9). -/
def State.applyReport (s : State) (d : DispIx) (r : Report) : State :=
  let rep := r.clamped
  let s1 := { s with window := none, census := { s.census with outstanding := false } }
  let s2 := s1.modPres d fun _ => ⟨.present, 0, some rep⟩
  let s3 := (s2.presentRose s.presentCount).plantChanged d
  let s4 := match mismatchCode rep (s.dispEntry d) with
    | some code => s3.raise .dispenserMismatch (.dispenser d) code
    | none => s3
  s4.advanceCensus

/-- A probe's window has expired without a valid report (R10). -/
def State.missProbe (s : State) (d : DispIx) : State :=
  let s1 := { s with window := none, census := { s.census with outstanding := false } }
  let p := s.pres d
  if p.miss = 0 then s1.modPres d fun p => { p with miss := 1 }
  else
    let s2 := (s1.modPres d fun p => { p with presence := .absent, miss := 0 }).plantChanged d
    let s3 := if p.presence = .present ∨ p.presence = .unprobed then s2.raise .dispenserAbsent (.dispenser d) 0 else s2
    s3.advanceCensus

/-- A report from an unlisted address (R10). -/
def State.unlistedReport (s : State) (d : DispIx) : State :=
  if s.census.unlistedSeen[d.val] then s
  else
    let s1 := s.raise .dispenserUnlisted (.dispenser d) 0
    { s1 with census := { s1.census with unlistedSeen := s1.census.unlistedSeen.set d.val true } }

/-- A CENSUS REPORT received on the ACTIVE line, from source address `d` (R9, R10); a report of `none` has a body not
laid out (12.2). -/
def State.censusReport (s : State) (d : DispIx) (r : Option Report) : State :=
  if (s.pres d).presence = .unlisted then s.unlistedReport d
  else if s.window = some (.census d) ∧ s.census.probe = some d then
    match r with
    | some rep => if rep.ports = 1 ∨ rep.ports = 2 then s.applyReport d rep else s
    | none => s
  else s

/-- An outstanding probe is abandoned or discarded: no miss, its window closed, and its frame, if it is still being
sent, opens none (R12, R23; log 10). -/
def State.discardProbe (s : State) : State :=
  let stop (x : StallLineState) : StallLineState :=
    match x.tx with
    | some (.census d _) => { x with tx := some (.census d false) }
    | _ => x
  { s with
    census := { s.census with outstanding := false }
    window := match s.window with
      | some (.census _) => none
      | w => w
    lineA := stop s.lineA
    lineB := stop s.lineB }

/-! ## The PLANT swap (R6) -/

/-- A presence record against the new live entry (R6). -/
def PresenceRec.swapped (p : PresenceRec) (listed : Bool) : PresenceRec :=
  match p.presence, listed with
  | .unlisted, true => { p with presence := .unprobed, miss := 0 }
  | .unlisted, false => p
  | _, true => p
  | _, false => .unlisted

/-- The Plant Map acts on a PLANT swap, the live set being new already (R6, R12, R126, R131). -/
def State.plantSwapped (s : State) : State :=
  let s1 := { s with presence := tab fun d => (s.pres d).swapped (s.dispEntry d).listed }
  let s2 := s1.reService.discardProbe.startCensus
  s2.reevalAll.checkLimits allDisps

end Sys2Proof.Machine
end

