-- ==== Sys2Proof/Machine/Uplink.lean ====
section
/-! DEFINITION. What the Office Port queues for its transmitter: uplink frames (R161) and responses (R159). -/

namespace Sys2Proof.Machine

open Sys2Proof

/-- An uplink frame is offered to the forward queue (R161). -/
def State.offerForward (s : State) (f : Frame) : State :=
  if s.office.forward.length < forwardMax then
    { s with office := { s.office with forward := s.office.forward ++ [f] } }
  else
    let s1 := { s with office := { s.office with dropCount := min 65535 (s.office.dropCount + 1), dropMark := true } }
    if s.office.dropMark then s1 else s1.raise .forwardDropped .part f.src.toNat

/-- The kind octet of a request (12.3). -/
def Request.kind : Request → Byte
  | .identify => kIdentify
  | .statusRead _ _ => kStatusRead
  | .reset => kReset
  | .heartbeat _ => kHeartbeat
  | .tableSelect _ _ => kTableSelect
  | .tableWrite _ _ _ _ => kTableWrite
  | .tableRead _ _ _ _ => kTableRead
  | .discard _ => kDiscard
  | .commit _ _ => kCommit
  | .lock => kLock
  | .setTime _ => kSetTime
  | .setpoint _ _ _ => kSetpoint
  | .lineSelect _ => kLineSelect
  | .lineTest _ => kLineTest
  | .censusStart => kCensusStart
  | .malformed k => k
  | .unknown k => k

/-- A response frame (R159). -/
def responseFrame (kind tag : Byte) (body : List Byte) : Frame := ⟨addrSupervisor, addrPart, kind, tag, body⟩

/-- The request in hand is answered: its response enters the slot, and it is no longer in hand (R159). -/
def State.answer (s : State) (body : List Byte) : State :=
  match s.office.inHand with
  | some r => { s with office := { s.office with
      slot := some (responseFrame r.req.kind r.tag body)
      inHand := none } }
  | none => s

end Sys2Proof.Machine
end

