-- ==== Sys2Proof/Machine/Lines.lean ====
section
/-! DEFINITION. The stall lines (02): frames received and lost, health, roles and the LINE TEST. -/

namespace Sys2Proof.Machine

open Sys2Proof

/-! ## A change of role (R32, R33) -/

/-- The frame in progress on the old ACTIVE line is abandoned (R33). A POLL or CENSUS frame cut short has not been sent,
so what R8 holds of the last one sent stands (log 10). -/
def State.abandonTx (s : State) (tx : Option StallTx) : State :=
  match tx with
  | some (.set i _ _ _) =>
    { s with setQ := s.setQ.map fun e => if e.stall == i then { e with inFlight := false } else e }
  | some (.pass f) =>
    let s1 := { s with passQ := s.passQ.drop 1 }
    match dispAt f.dest with
    | some d => s1.raise .passthroughDropped (.dispenser d) 3
    | none => s1
  | some (.census _ _) => { s with census := { s.census with outstanding := false } }
  | some (.poll _ before) => { s with pollPos := before }
  | some (.fill _) | some (.check _) | some (.test _) | none => s

/-- The open window is abandoned (R33). -/
def State.abandonWindow (s : State) : State :=
  match s.window with
  | some (.poll _ before) => { s with pollPos := before, window := none }
  | some (.census _) => { s with census := { s.census with outstanding := false }, window := none }
  | none => s

/-- The line that gives up the ACTIVE role (R32 step 3, R33). -/
def StallLineState.toStandby (x : StallLineState) : StallLineState :=
  { x with tx := none, unanswered := 0, rotation := none, checkOut := none, checkDue := false }

/-- The line that takes the ACTIVE role: its CHECK in progress or outstanding is abandoned (R33). -/
def StallLineState.toActive (x : StallLineState) : StallLineState :=
  { x with
    tx := match x.tx with
      | some (.check _) => none
      | t => t
    checkOut := none
    checkDue := false }

/-- The roles swap (R32 steps 1 to 5, R33); `why` is the parameter of LINE_SWITCH. -/
def State.swapRoles (s : State) (why : Nat) : State :=
  let old := s.active
  let s1 := (s.abandonTx (s.line old).tx).abandonWindow
  let s2 := (s1.modLine old StallLineState.toStandby).modLine old.other StallLineState.toActive
  let s3 := ({ s2 with active := old.other, between := 0 }).raise .lineSwitch (.line old.other.line) why
  if ¬ s3.census.running ∧ allDisps.any (fun d => (s3.pres d).presence == .absent) then s3.startCensus else s3

/-- Auto switchover takes place where its three conditions hold (R32). -/
def State.roleRule (s : State) : State :=
  if (s.line s.active).health = .failed ∧ (s.line s.standby).health = .good ∧ s.params.autoSwitch then s.swapRoles 1
  else s

/-! ## Line faults and qualification (R30, R31) -/

/-- A line fault with its cause, 1 break, 2 silence, 3 unanswered CHECKs (R30). -/
def State.lineFault (s : State) (l : StallLine) (cause : Nat) : State :=
  match (s.line l).health with
  | .test => s
  | .failed => s.modLine l fun x => { x with qual := 0 }
  | .good =>
    let s1 := (s.modLine l fun x => { x with health := .failed, qual := 0 }).raise .lineFailed (.line l.line) cause
    let s2 := s1.roleRule
    if (s.line l.other).health = .failed then s2.raise .lineSwitch (.line s2.active.line) 0 else s2

/-- A valid frame received on a stall line outside TEST: its silence timer restarts and it counts toward
qualification (R20, R31). -/
def State.validFrame (s : State) (l : StallLine) : State :=
  let s1 := s.modLine l fun x => { x with rx := x.rx.afterValid, silence := 0 }
  let x := s1.line l
  if x.health = .failed then
    if 3 ≤ x.qual + 1 then
      ((s1.modLine l fun x => { x with health := .good, qual := 0, unanswered := 0 }).raise .lineRestored
        (.line l.line) 0).roleRule
    else s1.modLine l fun x => { x with qual := x.qual + 1 }
  else s1

/-- A bad frame on a stall line outside TEST (R18). -/
def State.badStallFrame (s : State) (l : StallLine) : State :=
  let x := s.line l
  let n := min 65535 (x.errors + 1)
  let s1 := s.modLine l fun x => { x with errors := n, qual := 0, rx := { x.rx with badSince := true } }
  if x.rx.badSince then s1 else s1.raise .frameError (.line l.line) n

/-! ## Delivery (R20, R21, R29) -/

/-- The error count of a stall line rises by one, holding at 65535. -/
def State.countError (s : State) (l : StallLine) : State :=
  s.modLine l fun x => { x with errors := min 65535 (x.errors + 1) }

/-- A port record from its 12 octets (12.4). -/
def portRecordOf (o : List Byte) : Option PortRecord :=
  match o with
  | [a, b, c, d, e, f, g, h, i, j, k, l] =>
    some { plugged := a != 0#8
           fleet := rd16 b c
           soc := rd16 d e
           power := signed 16 (rd16 f g)
           counter := signed 32 (rd32 h i j k)
           fault := l.toNat }
  | _ => none

/-- The port records of a TELEMETRY body, port 0 first; none when it is not well formed (R21, 12.4). -/
def telemetryRecords (body : List Byte) : Option (List (Fin 2 × PortRecord)) :=
  if body.length = 12 then (portRecordOf body).map fun r => [(0, r)]
  else
    match portRecordOf (body.take 12), portRecordOf (body.drop 12) with
    | some r0, some r1 => some [(0, r0), (1, r1)]
    | _, _ => none

/-- The port records of a taken TELEMETRY, in port order (R21). -/
def State.portRecords (s : State) (d : DispIx) (rs : List (Fin 2 × PortRecord)) : State :=
  s.each rs fun s p => s.portRecord (stallAt d p.1) p.2

/-- A POLL window is open to an address. -/
def State.pollOpen (s : State) (d : DispIx) : Bool :=
  match s.window with
  | some (.poll a _) => a == d
  | _ => false

/-- A TELEMETRY frame on the ACTIVE line (R21). -/
def State.takeTelemetry (s : State) (l : StallLine) (f : Frame) : State :=
  match dispAt f.src with
  | some d =>
    if s.pollOpen d then
      match telemetryRecords f.body with
      | some rs => (({ s with window := none }).portRecords d rs).offerForward f
      | none => s.countError l
    else s
  | none => s

/-- The values of a CENSUS REPORT's body (12.4); none when its length is not as laid out. -/
def reportOf (o : List Byte) : Option Report :=
  match o with
  | [n, a, b, c, d, e, f, g] =>
    some { ports := n.toNat
           cabinet := rd16 a b
           port0 := rd16 c d
           port1 := rd16 e f
           discharge := if g = 0#8 then false else if g = 1#8 then true else Config.reportedFlag g }
  | _ => none

/-- A CENSUS REPORT frame on the ACTIVE line is handed to the census (R9, R10). -/
def State.takeReport (s : State) (f : Frame) : State :=
  match dispAt f.src with
  | some d => s.censusReport d (reportOf f.body)
  | none => s

/-- A CHECK REPLY on a STANDBY line (R29). -/
def State.takeReply (s : State) (l : StallLine) (f : Frame) : State :=
  if (s.line l).checkOut.isSome ∧ dispAt f.src = (s.line l).checkOut then
    s.modLine l fun x => { x with unanswered := 0, checkOut := none }
  else s

/-- A valid frame is dealt with by role, kind and addresses (R20). -/
def State.routeStall (s : State) (l : StallLine) (f : Frame) : State :=
  if l = s.active then
    if f.kind = kTelemetry then s.takeTelemetry l f
    else if f.kind = kCensusReport then s.takeReport f
    else if f.kind = kCheckReply then s
    else if (dispAt f.src).isSome ∧ f.dest = addrSupervisor then s.offerForward f
    else s
  else if f.kind = kCheckReply then s.takeReply l f
  else s

/-- A stall line takes no frame while its receiver is in BREAK or the line is in TEST (R19, R35). -/
def State.deaf (s : State) (l : StallLine) : Bool :=
  (s.line l).rx.state == .brk || (s.line l).health == .test

/-- A valid frame has arrived on a stall line (R20). -/
def State.deliverStall (s : State) (l : StallLine) (f : Frame) : State :=
  if s.deaf l then s else (s.validFrame l).routeStall l f

/-! ## The LINE TEST (R35) -/

/-- The test starts on a STANDBY line (R35 steps 1, 2 and 4). -/
def State.startTest (s : State) (l : StallLine) : State :=
  let x := s.line l
  { s.setLine l { x with
      health := .test
      tx := some (.test 0)
      checkOut := none
      checkDue := false
      rx := x.rx.hunt } with
    test := some ⟨l, x.health, x.qual, 0, 0, false⟩ }

/-- The test ends (R35): the line is as it was, R32 is applied and the LINE TEST request is answered. -/
def State.endTest (s : State) (t : LineTest) : State :=
  let s1 := s.modLine t.line fun x => { x with
    rx := x.rx.hunt
    health := t.savedHealth
    qual := t.savedQual
    silence := 0
    unanswered := 0
    checkOut := none
    checkDue := false
    tx := none }
  (({ s1 with test := none }).roleRule).answer [rDone, oct t.intact]

/-- The frame of the test has come to its end: the next one starts, or the test ends (R35). -/
def State.advanceTest (s : State) (t : LineTest) : State :=
  if t.number = 7 then s.endTest t
  else
    let s1 := s.modLine t.line fun x => { x with tx := some (.test (t.number + 1)) }
    { s1 with test := some { t with number := t.number + 1, looped := false } }

/-- A looped copy is delivered (R35 steps 4 and 5). The run of bad frames that R18 asks for stands through the test
(log 36). -/
def State.testLooped (s : State) (tag : Byte) (body : List Byte) : State :=
  match s.test with
  | none => s
  | some t =>
    if t.looped then s
    else
      let good : Bool := tag == oct t.number && body == testPattern
      let t1 := { t with looped := true, intact := if good then t.intact + 1 else t.intact }
      match (s.line t.line).tx with
      | none => s.advanceTest t1
      | some _ => { s with test := some t1 }

/-- A TEST frame has been sent (R35 step 4): its 10 ms start, unless its copy has come back already. -/
def State.testSent (s : State) : State :=
  match s.test with
  | none => s
  | some t =>
    match (s.line t.line).tx with
    | none => s
    | some _ =>
      let s1 := s.modLine t.line fun x => { x with tx := none }
      if t.looped then s1.advanceTest t else s1

/-- The 10 ms of a TEST frame run out (R35 step 4). -/
def State.testTimeout (s : State) : State :=
  match s.test with
  | none => s
  | some t => if (s.line t.line).tx = none then s.advanceTest t else s

end Sys2Proof.Machine
end

