-- ==== Sys2Proof/Machine/Transmit.lean ====
section
/-! DEFINITION. The transmitters: the ACTIVE stall line's choice of a frame (R22 to R25), the STANDBY line's CHECK
(R29), the office transmitter's choice (R160), and what the end of a transmission brings. -/

namespace Sys2Proof.Machine

open Sys2Proof

def State.setTx (s : State) (l : StallLine) (tx : Option StallTx) : State := s.modLine l fun x => { x with tx := tx }

/-! ## The ACTIVE line (R22) -/

/-- Frames of the other three kinds may be started between two POLLs (R22). -/
def State.betweenAllows (s : State) : Bool := s.presentCount == 0 || decide (s.between < betweenMax)

/-- The count of a SET, pass-through or CENSUS frame started (R22); it is held at 4. -/
def State.countBetween (s : State) : State := { s with between := min betweenMax (s.between + 1) }

/-- The address of the census probe that is due (R8): none after a probe has been sent until a POLL has been sent, while
an address is PRESENT (log 10). -/
def State.probeDue (s : State) : Option DispIx :=
  if s.census.running ∧ ¬ s.census.outstanding ∧ (s.presentCount = 0 ∨ ¬ s.probed) then s.census.probe else none

/-- A CENSUS frame starts (R8, R22). -/
def State.startProbe (s : State) (d : DispIx) : State :=
  ({ s with census := { s.census with outstanding := true } }).countBetween.setTx s.active (some (.census d true))

/-- A POLL starts (R22, R24). -/
def State.startPoll (s : State) (d : DispIx) : State :=
  ({ s with pollPos := some d, between := 0 }).setTx s.active (some (.poll d s.pollPos))

/-- A SET frame starts for an entry, with the stall's setpoint in force (R27). -/
def State.startSet (s : State) (i : StallIx) : State :=
  let sp := (s.stall i).sp
  let q := s.setQ.map fun e : SetEntry => if e.stall == i then { e with inFlight := true } else e
  ({ s with setQ := q }).countBetween.setTx s.active (some (.set i sp.charge sp.cond sp.dis))

/-- The head of the setpoint queue, or else of the pass-through queue, starts (R22 steps 3 and 4, R27, R28). -/
def State.startQueued (s : State) : State :=
  match s.setQ, s.passQ with
  | e :: _, _ => s.startSet e.stall
  | [], f :: _ => s.countBetween.setTx s.active (some (.pass f))
  | [], [] => s

/-- The free ACTIVE transmitter starts a frame, if one is to be started (R22). -/
def State.startActive (s : State) : State :=
  if ¬ s.configured ∨ (s.line s.active).tx.isSome ∨ (s.line s.active).health = .test then s
  else if s.window.isSome then
    if s.betweenAllows then s.startQueued else s
  else
    match (if s.betweenAllows then s.probeDue else none), s.nextPresent s.pollPos with
    | some d, _ => s.startProbe d
    | none, some d => s.startPoll d
    | none, none => s.startQueued

/-! ## The STANDBY line (R29) -/

/-- A CHECK that is due starts once the transmitter is free (R29); while no dispenser is PRESENT it stays due
(log 32). -/
def State.startCheck (s : State) : State :=
  let l := s.standby
  let x := s.line l
  if x.checkDue ∧ x.tx = none ∧ x.health ≠ .test then
    match s.nextPresent x.rotation with
    | some d => s.setLine l { x with tx := some (.check d), rotation := some d, checkDue := false }
    | none => s
  else s

/-! ## The office line (R160) -/

/-- The free office transmitter starts a frame, if it has one to send (R160). -/
def State.startOffice (s : State) : State :=
  match s.office.tx with
  | some _ => s
  | none =>
    match s.office.slot with
    | some f => { s with office := { s.office with tx := some (.response f) } }
    | none =>
      if s.events.urgentReady then
        { s with office := { s.office with tx := some s.events.compose.1 }, events := s.events.compose.2 }
      else
        match s.office.forward with
        | f :: _ => { s with office := { s.office with tx := some (.forward f) } }
        | [] =>
          if s.events.routineReady then
            { s with office := { s.office with tx := some s.events.compose.1 }, events := s.events.compose.2 }
          else s

/-- The end of a command: the free transmitters start what they have to send, the stall lines before the office line
(log 3). -/
def State.finish (s : State) : State := s.startActive.startCheck.startOffice

/-! ## The end of a transmission on a stall line -/

/-- What the ACTIVE line is sending. -/
def State.activeTx (s : State) : Option StallTx := (s.line s.active).tx

/-- A POLL has been sent: its window opens (R23), and a further probe may be due (R8). -/
def State.pollSent (s : State) : State :=
  match s.activeTx with
  | some (.poll d before) => { s.setTx s.active none with window := some (.poll d before), probed := false }
  | _ => s

/-- A CENSUS frame has been sent: no further probe is due until a POLL has been sent (R8), and its window opens, unless
its probe has been discarded (R12, R23, log 10). -/
def State.censusSent (s : State) : State :=
  match s.activeTx with
  | some (.census d stands) =>
    { s.setTx s.active none with probed := true, window := if stands then some (.census d) else s.window }
  | _ => s

/-- A SET frame has been sent: its entry leaves if it still carries the in-flight mark (R27). -/
def State.setSent (s : State) : State :=
  match s.activeTx with
  | some (.set i _ _ _) => { s.setTx s.active none with setQ := s.setQ.filter fun e => !(e.stall == i && e.inFlight) }
  | _ => s

/-- A pass-through frame has been sent and leaves its queue (R28). -/
def State.passSent (s : State) : State :=
  match s.activeTx with
  | some (.pass _) => { s.setTx s.active none with passQ := s.passQ.drop 1 }
  | _ => s

/-- A FILL frame has been sent (R25). -/
def State.fillSent (s : State) (l : StallLine) : State :=
  match (s.line l).tx with
  | some (.fill _) => s.setTx l none
  | _ => s

/-- A CHECK has been sent: an earlier one without its reply is counted, to a line fault at 3 (R29). -/
def State.checkSent (s : State) (l : StallLine) : State :=
  let x := s.line l
  match x.tx with
  | some (.check d) =>
    let n := if x.checkOut.isSome then min 3 (x.unanswered + 1) else x.unanswered
    let s1 := s.setLine l { x with tx := none, checkOut := some d, unanswered := n }
    if x.unanswered < 3 ∧ n = 3 then s1.lineFault l 3 else s1
  | _ => s

/-- The transmitter has sent nothing for 100 ms (R25): a frame that is to be started goes out, else a FILL. -/
def State.idleTimeout (s : State) (l : StallLine) : State :=
  if (s.line l).tx.isSome ∨ (s.line l).health = .test then s
  else
    let s1 := s.startActive.startCheck
    if (s1.line l).tx = none then s1.setTx l (some (.fill (s1.alloc.roundCount % 256))) else s1

/-- The one-second CHECK timer of a STANDBY line expires (R29). With no dispenser PRESENT the expiry makes no CHECK due
(log 32). -/
def State.checkTimer (s : State) (l : StallLine) : State :=
  if l ≠ s.active ∧ (s.line l).health ≠ .test ∧ 0 < s.presentCount then s.modLine l fun x => { x with checkDue := true }
  else s

/-- A silence timer reaches 3 s (R30). -/
def State.silenceReached (s : State) (l : StallLine) : State :=
  if (s.line l).health ≠ .test ∧ 0 < s.presentCount then (s.modLine l fun x => { x with silence := 0 }).lineFault l 2
  else s

/-- The POLL window expires (R23). -/
def State.pollExpired (s : State) : State :=
  match s.window with
  | some (.poll _ _) => { s with window := none }
  | _ => s

/-- The CENSUS window expires without a valid report (R10). -/
def State.probeExpired (s : State) : State :=
  match s.window with
  | some (.census d) => s.missProbe d
  | _ => s

end Sys2Proof.Machine
end

