-- ==== Sys2Proof/Machine/LineCommands.lean ====
section
/-! DEFINITION. The stall lines' transmitters, windows and timers. Each meaning acts, and then the free transmitters start (log 3). -/

namespace Sys2Proof.Machine

open Sys2Proof

/-- A POLL has been sent (R23). -/
def execPollSent (s : State) : Host.Outcome State Fault Refusal :=
  .next s.pollSent.finish

/-- A CENSUS frame has been sent (R8). -/
def execCensusSent (s : State) : Host.Outcome State Fault Refusal :=
  .next s.censusSent.finish

/-- A SET frame has been sent (R27). -/
def execSetSent (s : State) : Host.Outcome State Fault Refusal :=
  .next s.setSent.finish

/-- A pass-through frame has been sent (R28). -/
def execPassthroughSent (s : State) : Host.Outcome State Fault Refusal :=
  .next s.passSent.finish

/-- A FILL frame has been sent (R25). -/
def execFillSent (line : StallLine) (s : State) : Host.Outcome State Fault Refusal :=
  .next (s.fillSent line).finish

/-- A CHECK has been sent (R29). -/
def execCheckSent (line : StallLine) (s : State) : Host.Outcome State Fault Refusal :=
  .next (s.checkSent line).finish

/-- A TEST frame has been sent (R35). -/
def execTestFrameSent (s : State) : Host.Outcome State Fault Refusal :=
  .next s.testSent.finish

/-- A looped copy is received (R35). -/
def execTestFrameLooped (tag : Byte) (body : List Byte) (s : State) : Host.Outcome State Fault Refusal :=
  .next (s.testLooped tag body).finish

/-- The 10 ms of a TEST frame run out (R35). -/
def execTestFrameTimeout (s : State) : Host.Outcome State Fault Refusal :=
  .next s.testTimeout.finish

/-- The POLL window expires (R23). -/
def execPollWindowExpiry (s : State) : Host.Outcome State Fault Refusal :=
  .next s.pollExpired.finish

/-- The CENSUS window expires (R10). -/
def execCensusWindowExpiry (s : State) : Host.Outcome State Fault Refusal :=
  .next s.probeExpired.finish

/-- The transmitter has sent nothing for 100 ms (R25). -/
def execIdleTimeout (line : StallLine) (s : State) : Host.Outcome State Fault Refusal :=
  .next (s.idleTimeout line).finish

/-- The one-second CHECK timer expires (R29). -/
def execCheckTimerExpiry (line : StallLine) (s : State) : Host.Outcome State Fault Refusal :=
  .next (s.checkTimer line).finish

/-- The silence timer reaches 3 s (R30). -/
def execSilenceTimeout (line : StallLine) (s : State) : Host.Outcome State Fault Refusal :=
  .next (s.silenceReached line).finish

end Sys2Proof.Machine
end

