-- ==== Sys2Proof/Machine/Site.lean ====
section
/-! DEFINITION. The Site Monitor (04): meter frames, samples, frequency qualification, staleness, dispatch frames. -/

namespace Sys2Proof.Machine

open Sys2Proof

def State.modSite (s : State) (f : SiteMonitor → SiteMonitor) : State := { s with site := f s.site }

/-- The meter line's error count rises by one, holding at 65535. -/
def State.countMeterError (s : State) : State := s.modSite fun m => { m with errors := min 65535 (m.errors + 1) }

/-- A bad frame on the meter line (R55). -/
def State.badMeterFrame (s : State) : State :=
  let s1 := s.countMeterError.modSite fun m => { m with rx := { m.rx with badSince := true } }
  if s.site.rx.badSince then s1 else s1.raise .frameError (.line .meter) s1.site.errors

/-! ## Frequency qualification (R61, R62) -/

/-- What qualification signals to the Reserve Controller. -/
inductive FreqSignal where
  | quiet | trip | restored
  deriving DecidableEq, Repr

/-- The frequency of a sample is qualified (R61, R62). -/
def State.qualify (s : State) (freq : Nat) : State × FreqSignal :=
  let g := s.grid.live.freq
  if s.site.low then
    let n := if g.restore ≤ freq then s.site.restore + 1 else 0
    if g.restore ≤ freq ∧ g.restoreCount ≤ n then
      ((s.modSite fun m => { m with low := false, trip := 0, restore := 0 }).raise .frequencyRestored .part
        ((freq : Int) - g.restore), .restored)
    else (s.modSite fun m => { m with restore := n }, .quiet)
  else
    let n := if freq < g.trip then s.site.trip + 1 else 0
    if freq < g.trip ∧ g.tripCount ≤ n then
      ((s.modSite fun m => { m with low := true, trip := 0, restore := 0 }).raise .frequencyTrip .part
        ((freq : Int) - g.trip), .trip)
    else (s.modSite fun m => { m with trip := n }, .quiet)

/-- Step 7 of R57. -/
def State.signal (s : State) (g : FreqSignal) : State :=
  match g with
  | .quiet => s
  | .trip => s.frequencyTrip
  | .restored => s.frequencyRestore

/-! ## Samples (R56, R57, R59) -/

/-- Steps 1 to 5 of R57. -/
def State.storeSample (s : State) (x : Sample) : State :=
  let s1 := if s.site.fresh then s else (s.modSite fun m => { m with fresh := true }).raise .meterRestored .part 0
  let p := s.fleetPower
  s1.modSite fun m => { m with sample := some x, fleetPower := p, lastLoad := some (x.importKw - p).toNat }

/-- A sample is taken (R57). -/
def State.takeSample (s : State) (x : Sample) : State :=
  let r := (s.storeSample x).qualify x.freq
  (r.1.signal r.2).examineStorage.storageSample

/-- A sample's values from its body (12.5); none when it is not well formed (R56). -/
def sampleOf (o : List Byte) : Option Sample :=
  match o with
  | [a, b, c, d, e, f, g, h] =>
    let x : Sample := ⟨signed 16 (rd16 a b), rd32 c d e f, rd16 g h⟩
    if -10000 ≤ x.importKw ∧ x.importKw ≤ 10000 ∧ 40000 ≤ x.freq ∧ x.freq ≤ 70000 then some x else none
  | _ => none

/-- A well-formed SAMPLE is judged by its sequence number (R56). -/
def State.judgeSample (s : State) (x : Sample) : State :=
  match s.site.fresh, s.site.sample with
  | true, some last =>
    if x.seq = last.seq then s
    else if x.seq = (last.seq + 1) % 65536 then s.takeSample x
    else (s.raise .meterGap .part ((x.seq + 65536 - last.seq - 1) % 65536 : Nat)).takeSample x
  | _, _ => s.takeSample x

/-- A SAMPLE frame (R56). -/
def State.sampleFrame (s : State) (body : List Byte) : State :=
  match sampleOf body with
  | some x => s.judgeSample x
  | none => s.countMeterError

/-! ## Dispatch frames (R64) -/

/-- A DISPATCH frame (R64). -/
def State.dispatchFrame (s : State) (body : List Byte) : State :=
  match body with
  | [action, a, b, c, d] =>
    if action = 1#8 then s.dispatchActivate (rd16 a b) (rd16 c d)
    else if action = 2#8 then s.dispatchRelease (rd16 a b)
    else s.countMeterError
  | _ => s.countMeterError

/-- A valid frame has arrived on the meter line (R55); none is taken while the receiver is in BREAK. -/
def State.deliverMeter (s : State) (f : Frame) : State :=
  if s.site.rx.state = .brk then s
  else
    let s1 := s.modSite fun m => { m with rx := m.rx.afterValid }
    if f.src = addrMeter ∧ (f.dest = addrPart ∨ f.dest = addrBroadcast) then
      if f.kind = kSample then s1.sampleFrame f.body
      else if f.kind = kDispatch then s1.dispatchFrame f.body
      else s1
    else s1

/-- The staleness timer reaches 1000 ms while the meter is FRESH (R60). -/
def State.meterStale (s : State) : State :=
  if s.site.fresh then
    ((s.modSite fun m => { m with fresh := false, trip := 0, restore := 0 }).raise .meterStale .part 0).examineStorage
  else s

end Sys2Proof.Machine
end

