-- ==== Sys2Proof/Machine/MeterCommands.lean ====
section
/-! DEFINITION. Frames received on the meter line, and its staleness timer. Each meaning acts, and then the free transmitters start (log 3). -/

namespace Sys2Proof.Machine

open Sys2Proof

/-- SAMPLE (R56, R57). -/
def execSample (dest tag : Byte) (body : List Byte) (s : State) : Host.Outcome State Fault Refusal :=
  .next (s.deliverMeter ⟨dest, addrMeter, kSample, tag, body⟩).finish

/-- DISPATCH ACTIVATE (R64, R141). -/
def execDispatchActivate (dest tag : Byte) (rest : List Byte) (s : State) : Host.Outcome State Fault Refusal :=
  .next (s.deliverMeter ⟨dest, addrMeter, kDispatch, tag, 1#8 :: rest⟩).finish

/-- DISPATCH RELEASE (R64, R142). -/
def execDispatchRelease (dest tag : Byte) (rest : List Byte) (s : State) : Host.Outcome State Fault Refusal :=
  .next (s.deliverMeter ⟨dest, addrMeter, kDispatch, tag, 2#8 :: rest⟩).finish

/-- The staleness timer reaches 1000 ms (R60). -/
def execMeterStalenessExpiry (s : State) : Host.Outcome State Fault Refusal :=
  .next s.meterStale.finish

end Sys2Proof.Machine
end

