-- ==== Sys2Proof/Machine/Clock.lean ====
section
/-! DEFINITION. The depot clock (R67 to R71): SET TIME, the minute tick, and the seconds that pass while nothing
waits. -/

namespace Sys2Proof.Machine

open Sys2Proof

/-- The deadline-dependent work after a move, and its hand-offs (R69 to R71, R81 to R83, R126, R139, R151). -/
def State.settleTime (s : State) : State := (s.evalAll.riskAll.trackerDone State.reevalAll).reserveTime

/-- The reaching work of a SET TIME from the old clock to second `n` (R68 to R70). -/
def State.moveClock (s : State) (old : Option Nat) (n : Nat) : State :=
  match old with
  | none => s.firstSetting n
  | some o => if (n + 86400 - o) % 86400 < 43200 then s.forwardMove o n else s

/-- A SET TIME in range (R68). -/
def State.setTime (s : State) (n : Nat) : State := (({ s with clock := some n }).moveClock s.clock n).settleTime

/-- A minute tick (R67, R71): the clock comes to the next whole minute. -/
def State.minuteTick (s : State) : State :=
  match s.clock with
  | none => s
  | some t =>
    let m := (t / 60 + 1) % 1440
    (({ s with clock := some (60 * m) }).forwardMove (60 * ((m + 1439) % 1440)) (60 * m)).settleTime

/-! ## A second of CLKIN with no command waiting (log 6) -/

/-- A count that runs down, held at 1. -/
def runDown (n : Nat) : Nat := if 1 < n then n - 1 else n

/-- A telemetry age a second later, held below the next threshold of R40. -/
def ageUp (x : Stall) : Nat :=
  match x.fresh with
  | .fresh => if x.age < 4 then x.age + 1 else x.age
  | .stale => if x.age < 29 then x.age + 1 else x.age
  | .unreachable => if x.age < 65535 then x.age + 1 else x.age
  | .none => x.age

/-- A silence timer a second later, held below the 3 s of R30. -/
def silenceUp (x : StallLineState) : StallLineState :=
  if x.health ≠ .test ∧ x.silence < 2 then { x with silence := x.silence + 1 } else x

/-- The clock or an elapsed count a second later, held below the next multiple of 60. -/
def secondUp (t : Nat) : Nat := if (t + 1) % 60 = 0 then t else t + 1

/-- One second passes: the counts of whole seconds move, and none reaches a threshold, since reaching one is a
command (R40, R67, R89, R150, R167, R178, R30). -/
def State.idleSecond (s : State) : State :=
  { s with
    clock := s.clock.map secondUp
    stalls := tab fun i => { s.stall i with age := ageUp (s.stall i) }
    lineA := silenceUp s.lineA
    lineB := silenceUp s.lineB
    superv := { s.superv with timer := runDown s.superv.timer }
    alloc := { s.alloc with remaining := runDown s.alloc.remaining }
    events := { s.events with hold := s.events.hold.map runDown }
    reserve := if s.reserve.state = .active then
        { s.reserve with act := s.reserve.act.map fun a => { a with elapsed := secondUp a.elapsed } }
      else s.reserve }

/-! ## The minutes and the limit of an activation (R150, R151) -/

/-- The second at which the activation reaches its end limit (R151). -/
def Activation.limit (a : Activation) : Nat := 60 * a.window.maxMinutes

/-- The elapsed seconds of an activation reach a multiple of 60 (R150). -/
def State.activationMinute (s : State) : State :=
  match s.reserve.state, s.reserve.act with
  | .active, some a => if a.elapsed < a.limit then s.progress (60 * (a.elapsed / 60 + 1)) else s
  | _, _ => s

/-- The elapsed seconds reach the end limit (R151): the progress report of that second first, then the end. -/
def State.activationLimit (s : State) : State :=
  match s.reserve.state, s.reserve.act with
  | .active, some a => (if a.elapsed < a.limit then s.progress a.limit else s).endActivation .limit
  | _, _ => s

end Sys2Proof.Machine
end

