-- ==== Sys2Proof/Machine/Operands.lean ====
section
/-! DEFINITION. The operand form of a supervisor request: its fields from its body (12.6), judged for length when it
is taken (R159). -/

namespace Sys2Proof.Machine

open Sys2Proof

/-- A request read from its kind and body: an unknown kind, or a known kind whose body length disagrees with its
layout, is told apart here (R159). The entry of a TABLE WRITE is judged against its table when it is taken. -/
def requestOf (kind : Byte) (body : List Byte) : Request :=
  if kind = kIdentify then
    match body with
    | [] => .identify
    | _ => .malformed kind
  else if kind = kStatusRead then
    match body with
    | [r, i] => .statusRead r i
    | _ => .malformed kind
  else if kind = kReset then
    match body with
    | [] => .reset
    | _ => .malformed kind
  else if kind = kHeartbeat then
    match body with
    | [a, b] => .heartbeat (a ++ b)
    | _ => .malformed kind
  else if kind = kTableSelect then
    match body with
    | [s, t] => .tableSelect s t
    | _ => .malformed kind
  else if kind = kTableWrite then
    match body with
    | s :: t :: i :: entry => .tableWrite s t i entry
    | _ => .malformed kind
  else if kind = kTableRead then
    match body with
    | [s, c, t, i] => .tableRead s c t i
    | _ => .malformed kind
  else if kind = kDiscard then
    match body with
    | [s] => .discard s
    | _ => .malformed kind
  else if kind = kCommit then
    match body with
    | [s, a, b, c, d] => .commit s (a ++ b ++ c ++ d)
    | _ => .malformed kind
  else if kind = kLock then
    match body with
    | [] => .lock
    | _ => .malformed kind
  else if kind = kSetTime then
    match body with
    | [a, b, c, d] => .setTime (a ++ b ++ c ++ d)
    | _ => .malformed kind
  else if kind = kSetpoint then
    match body with
    | [s, c, l] => .setpoint s c l
    | _ => .malformed kind
  else if kind = kLineSelect then
    match body with
    | [l] => .lineSelect l
    | _ => .malformed kind
  else if kind = kLineTest then
    match body with
    | [l] => .lineTest l
    | _ => .malformed kind
  else if kind = kCensusStart then
    match body with
    | [] => .censusStart
    | _ => .malformed kind
  else .unknown kind


end Sys2Proof.Machine
end

