-- ==== Sys2Proof/Machine/Supervise.lean ====
section
/-! DEFINITION. The Supervision Monitor (R166, R167) and the loss of supervision (R122). -/

namespace Sys2Proof.Machine

open Sys2Proof

/-- One stall at the entry into AUTONOMOUS (R122). -/
def State.loseCap (s : State) (i : StallIx) : State :=
  let x := s.stall i
  let s1 := s.modStall i fun x => { x with cap := none, lend := true }
  let s2 := if ¬ x.lend ∧ x.occ = .session then s1.each x.bus.toList State.reeval else s1
  s2.recompute i false

/-- The part becomes AUTONOMOUS, with 1 for a wrong token and 2 for the timer's expiry (R167, R122). -/
def State.loseSupervision (s : State) (cause : Nat) : State :=
  (({ s with superv := ⟨false, false, 0, 0⟩ }).raise .supervisorLost .part cause).each allStalls State.loseCap

/-- The heartbeat key expected (R166). -/
def State.expectedKey (s : State) : Nat :=
  if s.superv.expectB then s.plant.live.site.keyB else s.plant.live.site.keyA

/-- The supervision state, as an answer carries it. -/
def State.supervOctet (s : State) : Byte := flagOct s.superv.supervised

/-- A HEARTBEAT judged while CONFIGURED: whether its token was right, and the state after it (R166, R167). -/
def State.judgeHeartbeat (s : State) (token : Nat) : Bool × State :=
  let v := s.superv
  if token = s.expectedKey then
    if v.supervised then
      (true, { s with superv := { v with expectB := !v.expectB, timer := s.params.heartbeatPeriod } })
    else if v.correct = 0 then (true, { s with superv := { v with expectB := !v.expectB, correct := 1 } })
    else
      (true, ({ s with superv := ⟨true, !v.expectB, 0, s.params.heartbeatPeriod⟩ }).raise .supervisorRestored .part 0)
  else if v.supervised then (false, s.loseSupervision 1)
  else (false, { s with superv := { v with expectB := false, correct := 0 } })

/-- The heartbeat timer expires (R167). -/
def State.heartbeatExpired (s : State) : State := if s.superv.supervised then s.loseSupervision 2 else s

end Sys2Proof.Machine
end

