-- ==== Sys2Proof/Machine/Tables.lean ====
section
/-! DEFINITION. The Table Store's requests (10.4, R168 to R172, R1, R2), each with the body of its response. -/

namespace Sys2Proof.Machine

open Sys2Proof

/-! ## One set -/

/-- TABLE SELECT on a known set (R168). -/
def TableSet.select {α : Type} (t : TableSet α) (k : SetKind α) (table : Byte) : TableSet α × List Byte :=
  match tableShape k.number table.toNat with
  | none => (t, [rRange])
  | some _ => if t.pending then (t, [rBusy]) else ({ t with selected := table.toNat, cursor := 0 }, [rDone])

/-- The entry of a TABLE WRITE has the length of its table (R159); an unknown table is refused later. -/
def entryFits (set table : Nat) (entry : List Byte) : Bool :=
  match tableShape set table with
  | some (_, n) => entry.length == n
  | none => true

/-- The octet that names NEXT (12.6). -/
def nextIndex : Byte := 0xFF#8

/-- The table a TABLE WRITE names: the selected one with NEXT (12.6). -/
def TableSet.tableFor {α : Type} (t : TableSet α) (table index : Byte) : Nat :=
  if index = nextIndex then t.selected else table.toNat

/-- The cursor after a write that was stored (R168). -/
def TableSet.cursorAfter {α : Type} (t : TableSet α) (index : Byte) (count : Nat) : Nat :=
  if index = nextIndex then (if t.cursor + 1 < count then t.cursor + 1 else 0) else t.cursor

/-- TABLE WRITE on a known set (R1, R168, R169, R170); `locked` is the commissioning lock for PLANT. -/
def TableSet.write {α : Type} (t : TableSet α) (k : SetKind α) (locked : Bool) (table index : Byte)
    (entry : List Byte) : TableSet α × List Byte :=
  let tb := t.tableFor table index
  if ¬ entryFits k.number tb entry then (t, [rRange])
  else if t.pending then (t, [rBusy])
  else if locked then (t, [rLocked])
  else
    match tableShape k.number tb with
    | none => (t, [rRange])
    | some (count, _) =>
      let ix := if index = nextIndex then t.cursor else index.toNat
      if count ≤ ix then (t, [rRange])
      else
        match k.store t.draft tb ix entry with
        | none => (t, [rRange])
        | some (d, clamped) =>
          let c := t.cursorAfter index count
          ({ t with draft := d, cursor := c },
            [if clamped then rClamped else rDone, oct tb, oct ix, oct c] ++ k.entry d tb ix)

/-- TABLE READ on a known set (R171). -/
def TableSet.read {α : Type} (t : TableSet α) (k : SetKind α) (copy table index : Byte) : List Byte :=
  match tableShape k.number table.toNat with
  | none => [rRange]
  | some (count, _) =>
    if count ≤ index.toNat ∨ 1 < copy.toNat then [rRange]
    else
      let d := if copy = 0#8 then t.live else t.draft
      rDone :: be16 t.generation ++ [flagOct t.pending] ++ k.entry d table.toNat index.toNat

/-- DISCARD on a known set (R171). -/
def TableSet.discard {α : Type} (t : TableSet α) : TableSet α × List Byte :=
  if t.pending then (t, [rBusy]) else ({ t with draft := t.live, selected := 0, cursor := 0 }, [rDone])

/-- COMMIT on a known set (R172). `offender` is the table and index of the first offending entry. -/
def TableSet.commit {α : Type} (t : TableSet α) (k : SetKind α) (locked : Bool) (crc : BitVec 32)
    (offender : Option (Nat × Nat)) : TableSet α × List Byte :=
  if t.pending then (t, [rBusy])
  else if locked then (t, [rLocked])
  else if crc32 (k.octets t.draft) ≠ crc then (t, [rChecksum])
  else
    match offender with
    | some o => (t, [rInvalid, oct o.1, oct o.2])
    | none => ({ t with pending := true }, [rDone])

/-! ## Consistency checks (R2, R172) -/

/-- The first index of a table whose entry fails a check. -/
def firstBad {n : Nat} (bad : Fin n → Bool) : Option Nat := ((List.finRange n).find? bad).map (·.val)

/-- The PLANT checks (R2). -/
def PlantSet.offender (p : PlantSet) : Option (Nat × Nat) :=
  if p.site.keyA = 0 then some (0, 0)
  else if p.site.keyB = 0 ∨ p.site.keyB = p.site.keyA then some (0, 0)
  else (firstBad fun d : DispIx => p.dispensers[d.val].listed && p.dispensers[d.val].panel.isNone).map fun i => (2, i)

/-- The FLEET check (R172): used fleet numbers are all different. -/
def fleetOffender (v : Vector BusEntry 64) : Option (Nat × Nat) :=
  (firstBad fun b : BusIx => v[b.val].fleet != 0 &&
    (List.finRange 64).any fun c => decide (c < b) && v[c.val].fleet == v[b.val].fleet).map fun i => (0, i)

/-- The SCHEDULE checks, against the live FLEET set (R172). -/
def scheduleOffender (v : Vector DepEntry 96) (live : Vector BusEntry 64) : Option (Nat × Nat) :=
  (firstBad fun k : Fin 96 =>
    let e := v[k.val]
    e.fleet != 0 &&
      ((e.enabled != 0#8 && !(live.toList.any fun b => b.fleet == e.fleet)) ||
        (List.finRange 96).any fun j => decide (j < k) && v[j.val].fleet == e.fleet && v[j.val].minute == e.minute)).map
    fun i => (0, i)

/-- A window that contains a minute at all (R138). -/
def WindowEntry.nonempty (w : WindowEntry) : Bool := w.start != w.stop

/-- Two windows contain a common minute (R138): each is not empty and one contains the other's start. -/
def WindowEntry.meets (v w : WindowEntry) : Bool :=
  v.nonempty && w.nonempty && (v.contains w.start || w.contains v.start)

/-- The GRID checks (R172), FREQUENCY before WINDOW (log 25). -/
def GridSet.offender (g : GridSet) : Option (Nat × Nat) :=
  if ¬ g.freq.inRange then some (1, 0)
  else (firstBad fun i : WinIx => g.windows[i.val].enabled &&
    (List.finRange 16).any fun j => decide (j < i) && g.windows[j.val].enabled && g.windows[j.val].meets g.windows[i.val]).map
    fun i => (0, i)

/-! ## The requests by set number -/

/-- TABLE SELECT (R168). -/
def State.tableSelect (s : State) (set table : Byte) : State × List Byte :=
  match set.toNat with
  | 0 => let r := s.plant.select plantKind table; ({ s with plant := r.1 }, r.2)
  | 1 => let r := s.fleet.select fleetKind table; ({ s with fleet := r.1 }, r.2)
  | 2 => let r := s.schedule.select scheduleKind table; ({ s with schedule := r.1 }, r.2)
  | 3 => let r := s.grid.select gridKind table; ({ s with grid := r.1 }, r.2)
  | 4 => let r := s.policy.select policyKind table; ({ s with policy := r.1 }, r.2)
  | _ => (s, [rRange])

/-- TABLE WRITE (R1, R168 to R170). -/
def State.tableWrite (s : State) (set table index : Byte) (e : List Byte) : State × List Byte :=
  match set.toNat with
  | 0 => let r := s.plant.write plantKind s.lock table index e; ({ s with plant := r.1 }, r.2)
  | 1 => let r := s.fleet.write fleetKind false table index e; ({ s with fleet := r.1 }, r.2)
  | 2 => let r := s.schedule.write scheduleKind false table index e; ({ s with schedule := r.1 }, r.2)
  | 3 => let r := s.grid.write gridKind false table index e; ({ s with grid := r.1 }, r.2)
  | 4 => let r := s.policy.write policyKind false table index e; ({ s with policy := r.1 }, r.2)
  | _ => (s, [rRange])

/-- TABLE READ (R171). -/
def State.tableRead (s : State) (set copy table index : Byte) : List Byte :=
  match set.toNat with
  | 0 => s.plant.read plantKind copy table index
  | 1 => s.fleet.read fleetKind copy table index
  | 2 => s.schedule.read scheduleKind copy table index
  | 3 => s.grid.read gridKind copy table index
  | 4 => s.policy.read policyKind copy table index
  | _ => [rRange]

/-- DISCARD (R171). -/
def State.tableDiscard (s : State) (set : Byte) : State × List Byte :=
  match set.toNat with
  | 0 => let r := s.plant.discard; ({ s with plant := r.1 }, r.2)
  | 1 => let r := s.fleet.discard; ({ s with fleet := r.1 }, r.2)
  | 2 => let r := s.schedule.discard; ({ s with schedule := r.1 }, r.2)
  | 3 => let r := s.grid.discard; ({ s with grid := r.1 }, r.2)
  | 4 => let r := s.policy.discard; ({ s with policy := r.1 }, r.2)
  | _ => (s, [rRange])

/-- COMMIT (R2, R172). -/
def State.tableCommit (s : State) (set : Byte) (crc : BitVec 32) : State × List Byte :=
  match set.toNat with
  | 0 => let r := s.plant.commit plantKind s.lock crc s.plant.draft.offender; ({ s with plant := r.1 }, r.2)
  | 1 => let r := s.fleet.commit fleetKind false crc (fleetOffender s.fleet.draft); ({ s with fleet := r.1 }, r.2)
  | 2 =>
    let r := s.schedule.commit scheduleKind false crc (scheduleOffender s.schedule.draft s.fleet.live)
    ({ s with schedule := r.1 }, r.2)
  | 3 => let r := s.grid.commit gridKind false crc s.grid.draft.offender; ({ s with grid := r.1 }, r.2)
  | 4 => let r := s.policy.commit policyKind false crc none; ({ s with policy := r.1 }, r.2)
  | _ => (s, [rRange])

end Sys2Proof.Machine
end

