-- ==== Sys2Proof/Machine/Requests.lean ====
section
/-! DEFINITION. The requests of the supervisor as they are taken (R159): what each does and the body of its response. -/

namespace Sys2Proof.Machine

open Sys2Proof

/-! ## The device's own requests -/

/-- The code of a reset cause in IDENTIFY (R163). -/
def State.identifyBody (s : State) : List Byte :=
  rDone :: be16 vendorCode ++ be16 partCode ++ [revision, flagOct s.configured, s.supervOctet, oct s.resetCause.code,
    flagOct s.lock] ++ be16 s.plant.generation ++ be16 s.fleet.generation ++ be16 s.schedule.generation ++
    be16 s.grid.generation ++ be16 s.policy.generation ++ be32 (s.clock.getD 0xFFFFFFFF)

/-- STATUS READ (R164): the state counts the answer, since it may hold open figures (log 7). -/
def State.readStatus (s : State) (record index : Byte) : State × List Byte :=
  ({ s with freeCount := s.freeCount + 1 },
    match s.statusRecord record.toNat index.toNat with
    | some fs => rDone :: recordOctets s.freeCount fs
    | none => [rRange])

/-- HEARTBEAT (R162, R166, R167). -/
def State.takeHeartbeat (s : State) (token : BitVec 16) : State × List Byte :=
  if s.configured then
    let r := s.judgeHeartbeat token.toNat
    (r.2, [if r.1 then rDone else rInvalid, r.2.supervOctet])
  else (s, [rNotReady])

/-- LOCK (R13). -/
def State.takeLock (s : State) : State × List Byte :=
  if ¬ s.configured then (s, [rNotReady])
  else if s.plant.pending then (s, [rBusy])
  else ({ s with lock := true }, [rDone])

/-- SET TIME (R68). -/
def State.takeSetTime (s : State) (n : Nat) : State × List Byte :=
  if 86399 < n then (s, [rRange]) else (s.setTime n, [rDone])

/-- CENSUS START (R7). -/
def State.takeCensusStart (s : State) : State × List Byte :=
  if ¬ s.configured then (s, [rNotReady])
  else if s.census.running then (s, [rBusy])
  else (s.startCensus, [rDone])

/-! ## SETPOINT (R119 to R121) -/

/-- The octet that stands for NONE in a cap (12.6). -/
def capNone : Byte := 0xFF#8

/-- The cap a served SETPOINT stores (R120). -/
def State.storedCap (s : State) (i : StallIx) (cap : Byte) : Option Nat :=
  if cap = capNone then none else some (min cap.toNat (s.effPort i))

/-- The cap was lowered, or stands above the grant (R120). -/
def State.capClamped (s : State) (i : StallIx) (cap : Byte) : Bool :=
  match s.storedCap i cap with
  | none => false
  | some c => decide (c < cap.toNat) || decide ((s.stall i).grant < c)

/-- A served SETPOINT stores its cap and its permission, the bus is re-evaluated where the permission changed in
SESSION, and the stall is recomputed (R120, R121). -/
def State.steer (s : State) (i : StallIx) (cap : Byte) (lend : Bool) : State :=
  let x := s.stall i
  let s1 := s.modStall i fun x => { x with cap := s.storedCap i cap, lend := lend }
  let s2 := if x.lend ≠ lend ∧ x.occ = .session then s1.each x.bus.toList State.reeval else s1
  s2.recompute i false

/-- SETPOINT served for a stall (R120, R121). -/
def State.serveSetpoint (s : State) (i : StallIx) (cap lend : Byte) : State × List Byte :=
  let s1 := s.steer i cap (lend = 0#8)
  let sp := (s1.stall i).sp
  let s2 := if s.capClamped i cap then s1.raise .setpointClamped (.stall i) sp.charge else s1
  (s2, [if s.capClamped i cap then rClamped else rDone, oct i.val, ((s.storedCap i cap).map oct).getD capNone, lend,
    oct sp.charge, oct sp.cond, oct sp.dis])

/-- SETPOINT, examined in the order of R119. -/
def State.takeSetpoint (s : State) (stall cap lend : Byte) : State × List Byte :=
  if ¬ s.configured then (s, [rNotReady])
  else if ¬ s.superv.supervised then (s, [rNotSupervised])
  else if h : stall.toNat < 48 then
    if (250 < cap.toNat ∧ cap ≠ capNone) ∨ 1 < lend.toNat then (s, [rRange])
    else if (s.stall ⟨stall.toNat, h⟩).inService ∧ (s.stall ⟨stall.toNat, h⟩).occ.isPlugged then
      s.serveSetpoint ⟨stall.toNat, h⟩ cap lend
    else (s, [rNotReady])
  else (s, [rRange])

/-! ## LINE SELECT and LINE TEST (R34, R35) -/

/-- The stall line a request names (12.6). -/
def lineNamed (o : Byte) : Option StallLine := if o = 0#8 then some .a else if o = 1#8 then some .b else none

/-- LINE SELECT (R34). -/
def State.takeLineSelect (s : State) (line : Byte) : State × List Byte :=
  match lineNamed line with
  | none => (s, [rRange])
  | some l =>
    if l = s.active then (s, [rDone])
    else
      match (s.line l).health with
      | .good => (s.swapRoles 2, [rDone])
      | .failed => if (s.line s.active).health = .failed then (s.swapRoles 2, [rDone]) else (s, [rNotGood])
      | .test => (s, [rNotGood])

/-- LINE TEST (R35): the body of a refusal, or none when the test is taken and answers at its end. -/
def State.takeLineTest (s : State) (line : Byte) : State × Option (List Byte) :=
  match lineNamed line with
  | none => (s, some [rRange])
  | some l => if l = s.active ∨ (s.line l).health = .test then (s, some [rBusy]) else (s.startTest l, none)

/-! ## Taking a request (R159) -/

/-- A request is served: the state, and the body of its response unless it is answered later. -/
def State.serve (s : State) (r : Request) : State × Option (List Byte) :=
  match r with
  | .identify => (s, some s.identifyBody)
  | .statusRead record index => ((s.readStatus record index).1, some (s.readStatus record index).2)
  | .reset => (s, some [rDone])
  | .heartbeat token => ((s.takeHeartbeat token).1, some (s.takeHeartbeat token).2)
  | .tableSelect set table => ((s.tableSelect set table).1, some (s.tableSelect set table).2)
  | .tableWrite set table index e => ((s.tableWrite set table index e).1, some (s.tableWrite set table index e).2)
  | .tableRead set copy table index => (s, some (s.tableRead set copy table index))
  | .discard set => ((s.tableDiscard set).1, some (s.tableDiscard set).2)
  | .commit set crc => ((s.tableCommit set crc).1, some (s.tableCommit set crc).2)
  | .lock => (s.takeLock.1, some s.takeLock.2)
  | .setTime n => ((s.takeSetTime n.toNat).1, some (s.takeSetTime n.toNat).2)
  | .setpoint stall cap lend => ((s.takeSetpoint stall cap lend).1, some (s.takeSetpoint stall cap lend).2)
  | .lineSelect line => ((s.takeLineSelect line).1, some (s.takeLineSelect line).2)
  | .lineTest line => s.takeLineTest line
  | .censusStart => (s.takeCensusStart.1, some s.takeCensusStart.2)
  | .malformed _ => (s, some [rRange])
  | .unknown _ => (s, some [rUnknown])

/-- The head of the inbound queue is taken when no request is in hand and the response slot is empty (R159). -/
def State.takeNext (s : State) : State :=
  match s.office.inHand, s.office.slot, s.office.inbound with
  | none, none, r :: rest =>
    let s1 := { s with office := { s.office with inHand := some r, inbound := rest } }
    match s1.serve r.req with
    | (s2, some body) => s2.answer body
    | (s2, none) => s2
  | _, _, _ => s

/-- A request frame is offered to the inbound queue (R158), and taken at once if the port is free (R159). -/
def State.offerRequest (s : State) (r : TaggedReq) : State :=
  (if s.office.inbound.length < inboundMax then
    { s with office := { s.office with inbound := s.office.inbound ++ [r] } }
  else s.raise .officeOverrun .part r.tag.toNat).takeNext

end Sys2Proof.Machine
end

