-- ==== Sys2Proof/Machine/Resets.lean ====
section
/-! DEFINITION. The three resets (R15, R36, R54, R66, R88, R111, R124, R137, R156, R174, R181). -/

namespace Sys2Proof.Machine

open Sys2Proof

/-- A set across a hardware or soft reset: the draft becomes a copy of live, OPEN (R174). -/
def TableSet.kept {α : Type} (t : TableSet α) : TableSet α :=
  { t with draft := t.live, pending := false, selected := 0, cursor := 0 }

/-- What every reset leaves as it is: the input levels, and the model's own fields (log 5, log 7). It clears the mark
`probed`, so a probe sent before a reset holds back no probe after it; R8 does not say (DESIGN CHOICE, log 37). -/
def State.resetBase (s : State) : State :=
  { State.reset with
    office := .afterReset s.office.rx.atSpace
    lineA := .afterReset s.lineA.rx.atSpace
    lineB := .afterReset s.lineB.rx.atSpace
    site := .afterReset s.site.rx.atSpace
    freeCount := s.freeCount
    pending := s.pending }

/-- What a hardware and a soft reset keep besides: the tables and the lock (R15, R174). -/
def State.resetKept (s : State) : State :=
  { s.resetBase with
    plant := s.plant.kept
    fleet := s.fleet.kept
    schedule := s.schedule.kept
    grid := s.grid.kept
    policy := s.policy.kept
    lock := s.lock
    alloc := .afterReset s.params.period }

/-- A power-on reset. -/
def State.powerOn (s : State) : State := s.resetBase

/-- The departure list rebuilt from the live SCHEDULE set (R73, R88). -/
def State.rebuildDeps (s : State) : State := ({ s with deps := s.usedEntries.map s.freshDep }).sortDeps

/-- A hardware reset; `service` is the SERVICE strap at the release of RESET (R14, R15, R88). -/
def State.hardReset (s : State) (service : Bool) : State :=
  let cause : ResetCause := if service then .hardwareService else .hardware
  let s1 := { s.resetKept with
    lock := s.lock && !service
    configured := !s.plant.liveEmpty
    resetCause := cause
    presence := tab fun d => ⟨if (s.dispEntry d).listed then .unprobed else .unlisted, 0, none⟩
    events := .afterReset cause none }
  let s2 := s1.rebuildDeps
  if s.plant.liveEmpty then s2 else s2.startCensus

/-- A departure across a soft reset (R88). -/
def Departure.softKept (d : Departure) : Departure :=
  { d with
    state := match d.state with
      | .charging | .ready | .conditioning => .scheduled
      | st => st
    short := false
    atRisk := false }

/-- A stall line across a soft reset (R36); a LINE TEST in progress ends with the health it remembered. -/
def StallLineState.softKept (x : StallLineState) (test : Option LineTest) (l : StallLine) : StallLineState :=
  { StallLineState.afterReset x.rx.atSpace with
    health := match test with
      | some t => if t.line = l then t.savedHealth else x.health
      | none => x.health
    qual := match test with
      | some t => if t.line = l then t.savedQual else x.qual
      | none => x.qual }

/-- A bus record across a soft reset: a known estimate is carried (R54). -/
def Bus.softKept (x : Bus) : Bus := ⟨x.energy, x.energy.isSome, none, 0⟩

/-- A soft reset (R165). -/
def State.soft (s : State) : State :=
  let s1 := { s.resetKept with
    configured := s.configured
    resetCause := .soft
    active := s.active
    lineA := s.lineA.softKept s.test .a
    lineB := s.lineB.softKept s.test .b
    presence := tab fun d => { s.pres d with miss := 0 }
    buses := tab fun b => (s.bus b).softKept
    clock := s.clock
    deps := s.deps.map Departure.softKept
    events := .afterReset .soft s.clock }
  let s2 := { s1 with stalls := tab fun i => { s1.stall i with inService := s1.serviceOf i } }
  s2.startCensus

end Sys2Proof.Machine
end

