-- ==== Sys2Proof/Machine/Office.lean ====
section
/-! DEFINITION. The office line (10.1): frames received, pass-through frames, and the end of each transmission. -/

namespace Sys2Proof.Machine

open Sys2Proof

/-- A bad frame on the office line (R157). -/
def State.badOfficeFrame (s : State) : State :=
  let n := min 65535 (s.office.errors + 1)
  let s1 := { s with office := { s.office with errors := n, rx := { s.office.rx with badSince := true } } }
  if s.office.rx.badSince then s1 else s1.raise .frameError (.line .office) n

/-- The kinds the part itself sends on the stall lines (R28). -/
def reservedKind (k : Byte) : Bool :=
  k == kPoll || k == kSet || k == kCensus || k == kCheck || k == kFill || k == kTest

/-- A frame addressed to a dispenser is offered to the pass-through queue (R28). -/
def State.offerPass (s : State) (d : DispIx) (f : Frame) : State :=
  if ¬ s.configured then s.raise .passthroughDropped (.dispenser d) 2
  else if reservedKind f.kind then s.raise .passthroughDropped (.dispenser d) 1
  else if passMax ≤ s.passQ.length then s.raise .passthroughDropped (.dispenser d) 0
  else { s with passQ := s.passQ ++ [f] }

/-- A valid frame has arrived on the office line (R157); none is taken while the receiver is in BREAK. -/
def State.deliverOffice (s : State) (f : Frame) : State :=
  if s.office.rx.state = .brk then s
  else
    let s1 := { s with office := { s.office with rx := s.office.rx.afterValid } }
    if f.src = addrSupervisor then
      if f.dest = addrPart then s1.offerRequest ⟨f.tag, requestOf f.kind f.body⟩
      else
        match dispAt f.dest with
        | some d => s1.offerPass d f
        | none => s1
    else s1

/-- A request of the supervisor arrives. -/
def State.requestArrives (s : State) (kind tag : Byte) (body : List Byte) : State :=
  s.deliverOffice ⟨addrPart, addrSupervisor, kind, tag, body⟩

def State.officeTxDone (s : State) : State := { s with office := { s.office with tx := none } }

/-- A response that says a soft reset is to take effect (R165). -/
def isResetAnswer (f : Frame) : Bool := f.kind == kReset && f.body == [rDone]

/-- A response has been sent (R160, R165): the slot empties and the next request may be taken. -/
def State.responseSent (s : State) : State :=
  match s.office.tx with
  | some (.response f) =>
    if isResetAnswer f then s.soft
    else
      let s1 := s.officeTxDone
      ({ s1 with office := { s1.office with slot := none } }).takeNext
  | _ => s

/-- A forwarded frame has been sent and leaves its queue (R161). -/
def State.forwardSent (s : State) : State :=
  match s.office.tx with
  | some (.forward _) =>
    let s1 := s.officeTxDone
    { s1 with office := { s1.office with forward := s1.office.forward.drop 1, dropMark := false } }
  | _ => s

/-- An event frame has been sent (R180). -/
def State.eventSent (s : State) : State :=
  match s.office.tx with
  | some (.event _ _) => { s.officeTxDone with events := s.events.sent }
  | _ => s

/-- The routine hold timer expires (R178). -/
def State.holdExpired (s : State) : State :=
  match s.events.hold with
  | some _ => { s with events := { s.events with hold := none, released := true } }
  | none => s

end Sys2Proof.Machine
end

