-- ==== Sys2Proof/Machine/OfficeCommands.lean ====
section
/-! DEFINITION. The office line's pass-through frames, transmissions and hold timer. Each meaning acts, and then the free transmitters start (log 3). -/

namespace Sys2Proof.Machine

open Sys2Proof

/-- A supervisor frame for a dispenser arrives (R157, R28). -/
def execPassthroughFrame (dest kind tag : Byte) (body : List Byte) (s : State) : Host.Outcome State Fault Refusal :=
  .next (s.deliverOffice ⟨dest, addrSupervisor, kind, tag, body⟩).finish

/-- A response has been sent (R160, R159, R165). -/
def execResponseSent (s : State) : Host.Outcome State Fault Refusal :=
  .next s.responseSent.finish

/-- A forwarded frame has been sent (R161). -/
def execForwardFrameSent (s : State) : Host.Outcome State Fault Refusal :=
  .next s.forwardSent.finish

/-- An event frame has been sent (R180). -/
def execEventFrameSent (s : State) : Host.Outcome State Fault Refusal :=
  .next s.eventSent.finish

/-- The routine hold timer expires (R178). -/
def execRoutineHoldExpiry (s : State) : Host.Outcome State Fault Refusal :=
  .next s.holdExpired.finish

end Sys2Proof.Machine
end

