-- ==== Sys2Proof/Machine/Receive.lean ====
section
/-! DEFINITION. What a receiver takes: an octet, a bad frame, a break, on any of the four lines (R17 to R19, R55,
R157). -/

namespace Sys2Proof.Machine

open Sys2Proof

/-- A line's receiver. -/
def State.rx (s : State) : Line → Receiver
  | .a => s.lineA.rx
  | .b => s.lineB.rx
  | .meter => s.site.rx
  | .office => s.office.rx

def State.setRx (s : State) (l : Line) (r : Receiver) : State :=
  match l with
  | .a => { s with lineA := { s.lineA with rx := r } }
  | .b => { s with lineB := { s.lineB with rx := r } }
  | .meter => { s with site := { s.site with rx := r } }
  | .office => { s with office := { s.office with rx := r } }

/-- The line is a stall line in TEST (R35). -/
def State.inTest (s : State) : Line → Bool
  | .a => s.lineA.health == .test
  | .b => s.lineB.health == .test
  | .meter | .office => false

/-- A valid frame has arrived whole on a line. -/
def State.deliver (s : State) (l : Line) (f : Frame) : State :=
  match l with
  | .a => s.deliverStall .a f
  | .b => s.deliverStall .b f
  | .meter => s.deliverMeter f
  | .office => s.deliverOffice f

/-- A bad frame is counted on a line (R18, R55, R157). -/
def State.countBad (s : State) (l : Line) : State :=
  match l with
  | .a => s.badStallFrame .a
  | .b => s.badStallFrame .b
  | .meter => s.badMeterFrame
  | .office => s.badOfficeFrame

/-- An octet arrives (R17, R18). On a line in TEST it comes from the line's own transmit path, a valid frame is a
looped copy, and a bad one is not counted (R35). -/
def State.octet (s : State) (l : Line) (o : Byte) : State :=
  let r := (s.rx l).octet o
  let s1 := s.setRx l r.1
  if s.inTest l then
    match r.2 with
    | .valid f => s1.testLooped f.tag f.body
    | .quiet | .bad => s1
  else
    match r.2 with
    | .quiet => s1
    | .valid f => s1.deliver l f
    | .bad => s1.countBad l

/-- A frame fails (R18); afterwards the receiver stands in SYNC1_SEEN when the octet that failed it was SYNC1, and in
HUNT otherwise. Nothing is received in BREAK; a bad frame in TEST is discarded and not counted (R35). -/
def State.badFrame (s : State) (l : Line) (resync : Bool) : State :=
  if (s.rx l).state = .brk then s
  else
    let s1 := s.setRx l ((s.rx l).failOn (if resync then sync1 else 0#8))
    if s.inTest l then s1 else s1.countBad l

/-- A break is detected (R19, R55, R157). In TEST the receiver does not listen to the line. -/
def State.breakDetected (s : State) (l : Line) : State :=
  if (s.rx l).state = .brk then s
  else if s.inTest l then s.setRx l { s.rx l with atSpace := true }
  else
    let s1 := s.setRx l (s.rx l).enterBreak
    match l with
    | .a => (s1.modLine .a fun x => { x with qual := 0 }).lineFault .a 1
    | .b => (s1.modLine .b fun x => { x with qual := 0 }).lineFault .b 1
    | .meter | .office => s1

/-- The input returns to mark (R19). -/
def State.breakEnd (s : State) (l : Line) : State := s.setRx l (s.rx l).leaveBreak

/-- A valid frame that a delivery table does not accept, on the meter or the office line (R55, R157). -/
def State.frameDiscarded (s : State) (l : Line) : State :=
  match l with
  | .meter | .office => if (s.rx l).state = .brk then s else s.setRx l (s.rx l).afterValid
  | .a | .b => s

end Sys2Proof.Machine
end

