-- ==== Sys2Proof/Machine/ReceiverCommands.lean ====
section
/-! DEFINITION. What the four receivers report. Each meaning acts, and then the free transmitters start (log 3). -/

namespace Sys2Proof.Machine

open Sys2Proof

/-- A frame fails with a CRC, escape or length error (R18, R55, R157). -/
def execBadFrame (line : Line) (resync : Bool) (s : State) : Host.Outcome State Fault Refusal :=
  .next (s.badFrame line resync).finish

/-- 40 character times pass between two octets (R18). -/
def execGapError (line : Line) (s : State) : Host.Outcome State Fault Refusal :=
  .next (s.badFrame line false).finish

/-- The input has been at space for 20 bit times (R19). -/
def execBreakDetected (line : Line) (s : State) : Host.Outcome State Fault Refusal :=
  .next (s.breakDetected line).finish

/-- The input returns to mark (R19). -/
def execBreakEnd (line : Line) (s : State) : Host.Outcome State Fault Refusal :=
  .next (s.breakEnd line).finish

/-- One octet arrives (R17, R18). -/
def execOctetReceived (line : Line) (o : Byte) (s : State) : Host.Outcome State Fault Refusal :=
  .next (s.octet line o).finish

/-- A valid frame that no delivery table accepts (R55, R157). -/
def execFrameDiscarded (line : Line) (s : State) : Host.Outcome State Fault Refusal :=
  .next (s.frameDiscarded line).finish

end Sys2Proof.Machine
end

