-- ==== Sys2Proof/Machine/RequestCommands.lean ====
section
/-! DEFINITION. The supervisor's requests: each is the arrival of its frame (R157, log 13). Each meaning acts, and then the free transmitters start (log 3). -/

namespace Sys2Proof.Machine

open Sys2Proof

/-- IDENTIFY (R163). -/
def execIdentify (tag : Byte) (s : State) : Host.Outcome State Fault Refusal :=
  .next (s.requestArrives kIdentify tag []).finish

/-- STATUS READ (R164). -/
def execStatusRead (tag record index : Byte) (s : State) : Host.Outcome State Fault Refusal :=
  .next (s.requestArrives kStatusRead tag [record, index]).finish

/-- RESET (R165). -/
def execReset (tag : Byte) (s : State) : Host.Outcome State Fault Refusal :=
  .next (s.requestArrives kReset tag []).finish

/-- HEARTBEAT (R166, R167). -/
def execHeartbeat (tag : Byte) (token : BitVec 16) (s : State) : Host.Outcome State Fault Refusal :=
  .next (s.requestArrives kHeartbeat tag (be16 token.toNat)).finish

/-- TABLE SELECT (R168). -/
def execTableSelect (tag set table : Byte) (s : State) : Host.Outcome State Fault Refusal :=
  .next (s.requestArrives kTableSelect tag [set, table]).finish

/-- TABLE WRITE (R1, R168 to R170). -/
def execTableWrite (tag set table index : Byte) (entry : List Byte) (s : State) : Host.Outcome State Fault Refusal :=
  .next (s.requestArrives kTableWrite tag (set :: table :: index :: entry)).finish

/-- TABLE READ (R171). -/
def execTableRead (tag set copy table index : Byte) (s : State) : Host.Outcome State Fault Refusal :=
  .next (s.requestArrives kTableRead tag [set, copy, table, index]).finish

/-- DISCARD (R171). -/
def execDiscard (tag set : Byte) (s : State) : Host.Outcome State Fault Refusal :=
  .next (s.requestArrives kDiscard tag [set]).finish

/-- COMMIT (R2, R172). -/
def execCommit (tag set : Byte) (crc : BitVec 32) (s : State) : Host.Outcome State Fault Refusal :=
  .next (s.requestArrives kCommit tag (set :: be32 crc.toNat)).finish

/-- LOCK (R13). -/
def execLock (tag : Byte) (s : State) : Host.Outcome State Fault Refusal :=
  .next (s.requestArrives kLock tag []).finish

/-- SET TIME (R68 to R70). -/
def execSetTime (tag : Byte) (second : BitVec 32) (s : State) : Host.Outcome State Fault Refusal :=
  .next (s.requestArrives kSetTime tag (be32 second.toNat)).finish

/-- SETPOINT (R119 to R121). -/
def execSetpoint (tag stall cap lend : Byte) (s : State) : Host.Outcome State Fault Refusal :=
  .next (s.requestArrives kSetpoint tag [stall, cap, lend]).finish

/-- LINE SELECT (R34). -/
def execLineSelect (tag line : Byte) (s : State) : Host.Outcome State Fault Refusal :=
  .next (s.requestArrives kLineSelect tag [line]).finish

/-- LINE TEST (R35). -/
def execLineTest (tag line : Byte) (s : State) : Host.Outcome State Fault Refusal :=
  .next (s.requestArrives kLineTest tag [line]).finish

/-- CENSUS START (R7). -/
def execCensusStart (tag : Byte) (s : State) : Host.Outcome State Fault Refusal :=
  .next (s.requestArrives kCensusStart tag []).finish

/-- A kind the part does not serve (R159). -/
def execUnknownRequest (tag kind : Byte) (body : List Byte) (s : State) : Host.Outcome State Fault Refusal :=
  .next (s.requestArrives kind tag body).finish

/-- A request frame of any kind (R158). -/
def execRequestFrame (tag kind : Byte) (body : List Byte) (s : State) : Host.Outcome State Fault Refusal :=
  .next (s.requestArrives kind tag body).finish

end Sys2Proof.Machine
end

