-- ==== Sys2Proof/Machine/ResetCommands.lean ====
section
/-! DEFINITION. The resets. Each meaning acts, and then the free transmitters start (log 3). -/

namespace Sys2Proof.Machine

open Sys2Proof

/-- Supply is applied (R174). -/
def execPowerOnReset (s : State) : Host.Outcome State Fault Refusal :=
  .next s.powerOn.finish

/-- RESET is released, with the SERVICE strap's level (R14). -/
def execHardwareReset (service : Bool) (s : State) : Host.Outcome State Fault Refusal :=
  .next (s.hardReset service).finish

/-- The last octet of the DONE response to RESET has been sent (R165). -/
def execSoftReset (s : State) : Host.Outcome State Fault Refusal :=
  .next s.soft.finish

end Sys2Proof.Machine
end

