-- ==== Sys2Proof/Machine/Allocation.lean ====
section
/-! DEFINITION. The allocation round (06): who takes part, fit, conditioning, charge, surplus, and its application. -/

namespace Sys2Proof.Machine

open Sys2Proof

/-! ## Fit (R98) -/

/-- One demand of a fit. A list of demands stands in ascending deadline key, equal keys in ascending stall number. -/
structure Demand where
  prot   : Bool
  amount : Nat
  deriving DecidableEq, Repr

/-- Step 1: the protected grants, `left` being what remains of Bu; 0 for the rest. -/
def protGrants : Nat → List Demand → List Nat
  | _, [] => []
  | left, d :: ds =>
    if d.prot then min d.amount left :: protGrants (left - min d.amount left) ds else 0 :: protGrants left ds

/-- An unprotected demand's amount; 0 for a protected one. -/
def Demand.open (d : Demand) : Nat := if d.prot then 0 else d.amount

/-- Step 4: the proportional floors of B′ over a total D′. -/
def floors (b total : Nat) (ds : List Demand) : List Nat := ds.map fun d => d.open * b / total

/-- Step 5: single kilowatts, one visit each, to the unprotected demands above 0. -/
def singles : Nat → List Demand → List Nat
  | _, [] => []
  | n, d :: ds => if 0 < n ∧ 0 < d.open then 1 :: singles (n - 1) ds else 0 :: singles n ds

/-- Steps 3 to 5: the unprotected grants from a remainder B′. -/
def openGrants (b : Nat) (ds : List Demand) : List Nat :=
  let total := (ds.map Demand.open).sum
  if total ≤ b then ds.map Demand.open
  else
    let fl := floors b total ds
    List.zipWith (· + ·) fl (singles (b - fl.sum) ds)

/-- Fit with an urgent budget Bu and a budget B (R98). -/
def fit (bu b : Nat) (ds : List Demand) : List Nat :=
  let p := protGrants bu ds
  List.zipWith (· + ·) p (openGrants (b - p.sum) ds)

/-! ## The taking-part stalls (R92 to R97, R100) -/

/-- A stall that takes part, with the figures of R93 to R97 and R100. -/
structure Party where
  stall   : StallIx
  key     : Int
  prot    : Bool
  ceiling : Nat
  need    : Nat
  cond    : Nat
  /-- Eligible for surplus apart from its slack (R107). -/
  eager   : Bool
  deriving DecidableEq, Repr

/-- The stall takes part (R92). -/
def Stall.takesPart (x : Stall) : Bool :=
  x.inService && x.occ.isPlugged && (x.fresh == .fresh || x.fresh == .stale)

/-- The bus of a stall in SESSION. -/
def Stall.sessionBus (x : Stall) : Option BusIx := if x.occ = .session then x.bus else none

/-- SoC of a bus in permille, 0 while UNKNOWN (R94). -/
def State.socOf (s : State) (b : BusIx) : Nat := s.energyOrZero b * 1000 / s.capacity b

/-- Taper value (R94). -/
def taper (a soc : Nat) : Nat := if soc ≤ 800 then a else a * (200 + 9 * (1000 - soc)) / 2000

/-- Ceiling of a taking-part stall (R93, R94). -/
def State.ceilingOf (s : State) (i : StallIx) : Nat :=
  let x := s.stall i
  if x.fresh = .stale then x.sp.charge
  else
    match x.sessionBus with
    | some b =>
      let a := (s.busEntry b).accept
      min (s.effPort i) (min a (taper a (s.socOf b)))
    | none => min s.params.guestCeiling (s.effPort i)

/-- The active departure of a stall's bus, with the bus. -/
def State.stallDep (s : State) (i : StallIx) : Option (BusIx × Departure) :=
  (s.stall i).sessionBus.bind fun b => (s.activeDep b).map fun d => (b, d)

/-- Deadline key (R95). -/
def State.keyOf (s : State) (i : StallIx) : Int :=
  match s.stallDep i with
  | some (_, d) => (s.deadlineOf d).getD 1440
  | none => 1440

/-- Requirement (R93, R96). -/
def State.requirementOf (s : State) (i : StallIx) : Nat :=
  if (s.stall i).fresh = .stale then (s.stall i).sp.charge
  else
    match s.stallDep i with
    | some (b, d) =>
      let n := s.needOf b d
      match s.deadlineOf d with
      | some t =>
        if n = 0 then 0
        else if t ≤ 0 then s.ceilingOf i
        else min (s.ceilingOf i) ((6 * n + t.toNat - 1) / t.toNat)
      | none => 0
    | none => 0

/-- Conditioning demand (R93, R100). -/
def State.condDemandOf (s : State) (i : StallIx) : Nat :=
  if (s.stall i).fresh = .stale then (s.stall i).sp.cond
  else
    match s.stallDep i with
    | some (_, d) => if d.state = .conditioning then min d.power (s.effPort i) else 0
    | none => 0

/-- Below the charge level (R107). -/
def State.belowLevel (s : State) (i : StallIx) : Bool :=
  match (s.stall i).sessionBus with
  | none => true
  | some b =>
    match (s.bus b).energy with
    | none => true
    | some e =>
      let t := match s.activeDep b with
        | some d => s.targetOf b d
        | none => 0
      decide (e < max t (s.params.chargeTo * s.capacity b / 1000))

def State.partyOf (s : State) (i : StallIx) : Party where
  stall := i
  key := s.keyOf i
  prot := (s.stall i).prot
  ceiling := s.ceilingOf i
  need := s.requirementOf i
  cond := s.condDemandOf i
  eager := (s.stall i).fresh == .fresh && (s.stall i).controller == .allocator && s.belowLevel i

/-- The taking-part stalls in ascending deadline key, equal keys in ascending stall number (R92, R95). -/
def State.parties (s : State) : List Party :=
  sortByKey Party.key ((allStalls.filter fun i => (s.stall i).takesPart).map s.partyOf)

/-! ## Grants by level (R101, R105) -/

/-- Grants, or demands, stall by stall. -/
abbrev Grants := Vector Nat 48

def Grants.of (g : Grants) (p : Party) : Nat := g[p.stall.val]

/-- The grants of some parties, as the results of a fit, are written over their demands. -/
def Grants.write (g : Grants) : List Party → List Nat → Grants
  | p :: ps, n :: ns => Grants.write (g.set p.stall.val n) ps ns
  | _, _ => g

/-- One call of fit over some of the parties. -/
def Grants.level (g : Grants) (flag : Party → Bool) (bu b : Nat) (ps : List Party) : Grants :=
  g.write ps (fit bu b (ps.map fun p => ⟨flag p, g.of p⟩))

/-- The sum of grants over some of the parties. -/
def Grants.sumOver (g : Grants) (ps : List Party) : Nat := (ps.map g.of).sum

/-- The stalls as demands at the first level: a figure of each party, 0 for a stall that does not take part. -/
def Grants.demands (f : Party → Nat) (ps : List Party) : Grants :=
  Grants.write (Vector.replicate 48 0) ps (ps.map f)

def atDisp (ps : List Party) (d : DispIx) : List Party := ps.filter fun p => dispOf p.stall == d

/-- The panels a stall may hang from; `none` carries nothing. -/
def allPanels : List (Option PanelIx) := none :: (List.finRange 6).map some

def State.atPanel (s : State) (ps : List Party) (p : Option PanelIx) : List Party :=
  ps.filter fun q => s.panelOf q.stall == p

/-- The effective limit of a panel, 0 for none. -/
def State.limitAt (s : State) (p : Option PanelIx) : Nat :=
  match p with
  | some i => s.panelLimit i
  | none => 0

/-- Dispenser level and panel level of a fit; `used` is what the conditioning grants have taken already. -/
def State.lowerLevels (s : State) (ps : List Party) (flag : Party → Bool) (used g : Grants) : Grants :=
  let g1 := allDisps.foldl (fun g d =>
    let b := (s.eff d).cabinet - used.sumOver (atDisp ps d)
    g.level flag b b (atDisp ps d)) g
  allPanels.foldl (fun g p =>
    let b := s.limitAt p - used.sumOver (s.atPanel ps p)
    g.level flag b b (s.atPanel ps p)) g1

/-- The conditioning grants (R101). -/
def State.condGrants (s : State) (ps : List Party) : Grants :=
  let g := s.lowerLevels ps (fun _ => true) (Vector.replicate 48 0) (Grants.demands Party.cond ps)
  let b := s.plant.live.site.feeder - s.loadInUse
  g.level (fun _ => true) b b ps

/-! ## Budgets (R102 to R104) -/

/-- The budgets of a round. -/
structure Budgets where
  hard      : Nat
  soft      : Nat
  softPlain : Nat
  modif     : ReserveMod
  ramp      : Nat
  deriving DecidableEq, Repr

/-- The site budgets after a conditioning total K, with the reserve modification (R102 to R104). -/
def State.budgets (s : State) (k : Nat) : Budgets :=
  let f := s.plant.live.site.feeder
  let hard := f - s.loadInUse - k
  let soft := min f s.importCeiling - s.loadInUse - k
  match s.reserve.state with
  | .active =>
    let z := (s.reserve.act.map (·.frozen)).getD 0
    ⟨min hard z, min soft z, soft, .active, s.alloc.ramp⟩
  | .recovery =>
    let r := min 65535 (s.alloc.ramp + s.params.rampStep)
    ⟨min hard r, min soft r, soft, .recovery, r⟩
  | .disarmed | .armed | .armedShort => ⟨hard, soft, soft, .none, s.alloc.ramp⟩

/-! ## Charge fit and surplus (R103, R105, R107, R108) -/

/-- A party's charge demand: 0 for an unprotected one while the reserve is ACTIVE (R103, R105). -/
def Party.chargeDemand (m : ReserveMod) (p : Party) : Nat := if m = .active ∧ ¬ p.prot then 0 else p.need

/-- The charge grants of the charge fit (R105). -/
def State.chargeGrants (s : State) (ps : List Party) (cond : Grants) (b : Budgets) : Grants :=
  (s.lowerLevels ps Party.prot cond (Grants.demands (Party.chargeDemand b.modif) ps)).level Party.prot b.hard b.soft ps

/-- Effective slack (R107). -/
def State.slack (s : State) (ps : List Party) (cond g : Grants) (p : Party) : Nat :=
  let d := atDisp ps (dispOf p.stall)
  let q := s.atPanel ps (s.panelOf p.stall)
  min (p.ceiling - g.of p)
    (min ((s.eff (dispOf p.stall)).cabinet - (g.sumOver d + cond.sumOver d))
      (s.limitAt (s.panelOf p.stall) - (g.sumOver q + cond.sumOver q)))

/-- The visit of a pass: each eligible stall in turn (R108 step 3). -/
def State.passVisit (s : State) (ps : List Party) (cond : Grants) (share : Nat) :
    List Party → Grants × Nat → Grants × Nat
  | [], r => r
  | p :: rest, (g, left) =>
    let n := min share (min (s.slack ps cond g p) left)
    s.passVisit ps cond share rest (g.set p.stall.val (g.of p + n), left - n)

/-- The surplus passes (R108). `fuel` bounds their number; each lowers the surplus by at least 1. -/
def State.passes (s : State) (ps : List Party) (cond : Grants) : Nat → Grants × Nat → Grants × Nat
  | 0, r => r
  | fuel + 1, (g, left) =>
    let el := ps.filter fun p => p.eager && decide (0 < s.slack ps cond g p)
    if el.length = 0 ∨ left = 0 then (g, left)
    else s.passes ps cond fuel (s.passVisit ps cond (max 1 (left / el.length)) el (g, left))

/-! ## The round (R90, R91, R110) -/

/-- What a round has computed. -/
structure Round where
  charge : Grants
  cond   : Grants
  budget : Budgets
  record : AllocRecord
  /-- Recovery is complete (R109). -/
  done   : Bool
  deriving DecidableEq, Repr

/-- The round's result, from the state as it stands (R90). -/
def State.computeRound (s : State) : Round :=
  let ps := s.parties
  let cond := s.condGrants ps
  let k := cond.sumOver ps
  let b := s.budgets k
  let fitted := s.chargeGrants ps cond b
  let surplus := b.soft - fitted.sumOver ps
  let r := if b.modif = .active then (fitted, surplus) else s.passes ps cond surplus (fitted, surplus)
  { charge := r.1
    cond := cond
    budget := b
    record := {
      minute := s.curMinute
      feeder := s.plant.live.site.feeder
      ceiling := s.importCeiling
      load := s.loadInUse
      cond := k
      hard := b.hard
      soft := b.soft
      softPlain := b.softPlain
      modif := b.modif
      ramp := b.ramp
      chargeSum := r.1.sumOver ps
      handedOut := surplus - r.2
      unused := if b.modif = .active then none else some r.2 }
    done := b.modif == .recovery && decide (b.softPlain ≤ b.ramp) }

/-- The result is applied (R91). -/
def State.applyRound (s : State) (r : Round) : State :=
  let s1 := { s with
    stalls := tab fun i => { s.stall i with grant := r.charge[i.val], condGrant := r.cond[i.val] }
    alloc := { s.alloc with
      ramp := r.budget.ramp
      record := r.record
      roundCount := (s.alloc.roundCount + 1) % 65536 } }
  let s2 := s1.each allStalls fun s i => s.recompute i false
  if r.done then s2.armingEval else s2

/-- A round (R89 step 3). -/
def State.takeRound (s : State) : State := s.applyRound s.computeRound

end Sys2Proof.Machine
end

