-- ==== Sys2Proof/Machine/Swap.lean ====
section
/-! DEFINITION. The swaps of PENDING drafts (R173) and each owner's action on them (R6, R52, R84 to R86, R154). -/

namespace Sys2Proof.Machine

open Sys2Proof

/-- Steps 1 to 3 of R173 for one set. -/
def TableSet.swapped {α : Type} (t : TableSet α) : TableSet α :=
  { t with
    live := t.draft
    liveEmpty := false
    generation := (t.generation + 1) % 65536
    pending := false
    selected := 0
    cursor := 0 }

/-- Step 4 of R173. -/
def State.committed (s : State) (set generation : Nat) : State := s.raise .committed (.tableSet set) generation

/-! ## FLEET (R52, R85, R126, R131) -/

/-- The entry of an old set with a fleet number, used or not by an enabled bus. -/
def entryOf (set : Vector BusEntry 64) (fleet : Nat) : Option BusIx :=
  if fleet = 0 then none else allBuses.find? fun b => set[b.val].fleet == fleet

/-- An old bus whose number is no longer that of an enabled bus, and which has a stall, loses its association with
cause ROSTER; its stall becomes GUEST, with BUS_UNKNOWN (R52). -/
def State.loseBus (s : State) (b : BusIx) : State :=
  match (s.bus b).stall with
  | some i => ((s.endAssoc b i).modStall i fun x => { x with occ := .guest }).raise .busUnknown (.stall i) 0
  | none => s

/-- The old buses that lose their association, ascending. -/
def State.losers (s : State) (old : Vector BusEntry 64) : List BusIx :=
  allBuses.filter fun b => (s.bus b).stall.isSome && (s.rosterIx old[b.val].fleet).isNone

/-- The bus record at a new roster index (R52): the matched record, a known estimate lowered to the new capacity. -/
def State.matchedBus (s : State) (old : Vector BusEntry 64) (b : BusIx) : Bus :=
  match entryOf old (s.busEntry b).fleet with
  | some o => { s.bus o with energy := (s.bus o).energy.map fun e => min e (s.capacity b) }
  | none => .unknown

/-- A stall's bus field follows its bus to the new index; the residue goes where the estimate was lowered (R52). -/
def State.matchedStall (s : State) (old : Vector BusEntry 64) (i : StallIx) : Stall :=
  let x := s.stall i
  match x.bus with
  | none => x
  | some o =>
    match entryOf s.fleet.live old[o.val].fleet with
    | none => { x with bus := none }
    | some b =>
      { x with
        bus := some b
        residue := if (s.bus o).energy.any (fun e => decide (s.capacity b < e)) then 0 else x.residue }

/-- The bus records are matched to the old set by fleet number (R52). -/
def State.rematch (s : State) (old : Vector BusEntry 64) : State :=
  { s with
    buses := tab fun b => s.matchedBus old b
    stalls := tab fun i => s.matchedStall old i }

/-- The open records of a number that is no longer an enabled bus become CANCELLED (R85). -/
def State.cancelDeps (s : State) : State :=
  { s with deps := s.deps.map fun d =>
      if d.state.isOpen && (s.rosterIx d.fleet).isNone then { d with state := .cancelled, short := false, atRisk := false }
      else d }

/-- The owners act on a FLEET swap; `old` is the live set before it (R52, R85, R126, R127, R131). -/
def State.fleetSwapped (s : State) (old : Vector BusEntry 64) : State :=
  let lost := s.losers old
  let stalls := lost.filterMap fun b => (s.bus b).stall
  let s1 := (s.each lost State.loseBus).rematch old
  s1.cancelDeps.sortDeps.evalAll.trackerDone fun s =>
    (((s.each stalls State.dropDischarge).reevalAll).checkLimits allDisps).testHoldback

/-! ## SCHEDULE (R84) -/

/-- The old record with a new entry's key. -/
def State.oldRecord (s : State) (e : DepEntry) : Option Departure :=
  s.deps.find? fun d => d.fleet == e.fleet && d.minute == e.minute

/-- The state of a record that is new and enabled (R84). -/
def State.newState (s : State) (e : DepEntry) : Readiness :=
  match s.rosterIx e.fleet, s.curMinute with
  | none, _ => .cancelled
  | some _, some m => if s.sdMinute e.minute ≤ s.sdMinute m then .cancelled else .scheduled
  | some _, none => .scheduled

/-- The record of an entry of the new set (R84). -/
def State.scheduledDep (s : State) (e : DepEntry) : Departure :=
  let on := e.enabled != 0#8
  let base : Departure := ⟨e.fleet, e.minute, e.route, e.lead, e.power, on, .disabled, false, false⟩
  if on then
    match s.oldRecord e with
    | some d =>
      if d.enabled then { base with state := d.state, short := d.short, atRisk := d.atRisk }
      else { base with state := s.newState e }
    | none => { base with state := s.newState e }
  else base

/-- DEPARTURE_REMOVED for an old record that vanishes as the active departure of a bus in SESSION (R84). -/
def State.removeDep (s : State) (pos : Nat) : State :=
  match s.deps[pos]? with
  | none => s
  | some d =>
    if s.usedEntries.any fun e => e.fleet == d.fleet && e.minute == d.minute then s
    else
      match s.rosterIx d.fleet with
      | none => s
      | some b =>
        match s.activeOf b, (s.bus b).stall with
        | some p, some i => if p = pos then s.raise .departureRemoved (.stall i) b.val else s
        | _, _ => s

/-- The Readiness Tracker acts on a SCHEDULE swap (R84); the old records that vanish are looked at in old list order
(log 11). -/
def State.scheduleSwapped (s : State) : State :=
  let s1 := s.each s.positions State.removeDep
  (({ s1 with deps := s.usedEntries.map s.scheduledDep }).sortDeps.evalAll).trackerDone State.reevalAll

/-! ## GRID (R154) and POLICY (R86, R132, R32, R178) -/

/-- The Reserve Controller acts on a GRID swap (R154). -/
def State.gridSwapped (s : State) : State :=
  match s.reserve.state with
  | .disarmed | .armed | .armedShort => s.armingEval
  | .active | .recovery => s

/-- The owners act on a POLICY swap; `roll` is the day-roll minute before it (R86, R126, R132, R32, R178). They act in
the order of the table of R173, which it does not give as an order: the model's choice (log 11). -/
def State.policySwapped (s : State) (roll : Nat) : State :=
  let s1 := if s.params.dayRoll = roll then s else s.sortDeps.evalAll
  let s2 := ((s1.trackerDone State.reevalAll).examineStorage).roleRule
  { s2 with events := s2.events.testBatch s2.params.batchThreshold }

/-! ## The swaps of one expiry (R173) -/

def State.swapPlant (s : State) : State :=
  if s.plant.pending then
    let s1 := ({ s with plant := s.plant.swapped }).committed 0 s.plant.swapped.generation
    ({ s1 with configured := true }).plantSwapped
  else s

def State.swapFleet (s : State) : State :=
  if s.fleet.pending then
    (({ s with fleet := s.fleet.swapped }).committed 1 s.fleet.swapped.generation).fleetSwapped s.fleet.live
  else s

def State.swapSchedule (s : State) : State :=
  if s.schedule.pending then
    (({ s with schedule := s.schedule.swapped }).committed 2 s.schedule.swapped.generation).scheduleSwapped
  else s

def State.swapGrid (s : State) : State :=
  if s.grid.pending then (({ s with grid := s.grid.swapped }).committed 3 s.grid.swapped.generation).gridSwapped else s

def State.swapPolicy (s : State) : State :=
  if s.policy.pending then
    (({ s with policy := s.policy.swapped }).committed 4 s.policy.swapped.generation).policySwapped s.params.dayRoll
  else s

/-- Every PENDING draft is swapped in, set by set (R173). -/
def State.swapAll (s : State) : State := s.swapPlant.swapFleet.swapSchedule.swapGrid.swapPolicy

/-- The allocation period timer expires (R89). -/
def State.periodExpiry (s : State) : State :=
  let s1 := s.swapAll
  ({ s1 with alloc := { s1.alloc with remaining := s1.params.period } }).takeRound

end Sys2Proof.Machine
end

