-- ==== Sys2Proof/Machine/TimerCommands.lean ====
section
/-! DEFINITION. The other timers. Each meaning acts, and then the free transmitters start (log 3). -/

namespace Sys2Proof.Machine

open Sys2Proof

/-- A FRESH stall's age reaches 5 s (R40). -/
def execStaleAgeReached (stall : StallIx) (s : State) : Host.Outcome State Fault Refusal :=
  .next (s.staleAge stall).finish

/-- A STALE stall's age reaches 30 s (R40). -/
def execUnreachableAgeReached (stall : StallIx) (s : State) : Host.Outcome State Fault Refusal :=
  .next (s.unreachableAge stall).finish

/-- The depot clock reaches a whole minute (R71). -/
def execMinuteTick (s : State) : Host.Outcome State Fault Refusal :=
  .next s.minuteTick.finish

/-- The allocation period timer expires (R89). -/
def execAllocationPeriodExpiry (s : State) : Host.Outcome State Fault Refusal :=
  .next s.periodExpiry.finish

/-- The path second count advances (R118). -/
def execPathSecondTick (s : State) : Host.Outcome State Fault Refusal :=
  .next s.pathTick.finish

/-- An activation's elapsed seconds reach a multiple of 60 (R150). -/
def execActivationMinute (s : State) : Host.Outcome State Fault Refusal :=
  .next s.activationMinute.finish

/-- An activation's elapsed seconds reach its end limit (R151). -/
def execActivationLimit (s : State) : Host.Outcome State Fault Refusal :=
  .next s.activationLimit.finish

/-- The heartbeat timer expires (R167). -/
def execHeartbeatTimerExpiry (s : State) : Host.Outcome State Fault Refusal :=
  .next s.heartbeatExpired.finish

end Sys2Proof.Machine
end

