-- ==== Sys2Proof/Machine/UplinkCommands.lean ====
section
/-! DEFINITION. Frames received on a stall line (R20). Each meaning acts, and then the free transmitters start (log 3). -/

namespace Sys2Proof.Machine

open Sys2Proof

/-- TELEMETRY (R21, R38). -/
def execTelemetry (line : StallLine) (dest src tag : Byte) (body : List Byte) (s : State) :
    Host.Outcome State Fault Refusal :=
  .next (s.deliverStall line ⟨dest, src, kTelemetry, tag, body⟩).finish

/-- CENSUS REPORT (R9, R10). -/
def execCensusReport (line : StallLine) (dest src tag : Byte) (body : List Byte) (s : State) :
    Host.Outcome State Fault Refusal :=
  .next (s.deliverStall line ⟨dest, src, kCensusReport, tag, body⟩).finish

/-- CHECK REPLY (R29). -/
def execCheckReply (line : StallLine) (dest src tag : Byte) (body : List Byte) (s : State) :
    Host.Outcome State Fault Refusal :=
  .next (s.deliverStall line ⟨dest, src, kCheckReply, tag, body⟩).finish

/-- Any other kind (R20). -/
def execUplinkFrame (line : StallLine) (dest src kind tag : Byte) (body : List Byte) (s : State) :
    Host.Outcome State Fault Refusal :=
  .next (s.deliverStall line ⟨dest, src, kind, tag, body⟩).finish

end Sys2Proof.Machine
end

