-- ==== Sys2Proof/Machine/Dispatch.lean ====
section
/-! DEFINITION. The dispatch: one arm per command, each one call of its meaning. -/

namespace Sys2Proof.Machine

open Sys2Proof

/-- A command's effect on everything but the queue. -/
def exec (i : Instr) (s : State) : Host.Outcome State Fault Refusal :=
  match i with
  | .powerOnReset => Sys2Proof.Machine.execPowerOnReset s
  | .hardwareReset service => Sys2Proof.Machine.execHardwareReset service s
  | .softReset => Sys2Proof.Machine.execSoftReset s
  | .identify tag => Sys2Proof.Machine.execIdentify tag s
  | .statusRead tag record index => Sys2Proof.Machine.execStatusRead tag record index s
  | .reset tag => Sys2Proof.Machine.execReset tag s
  | .heartbeat tag token => Sys2Proof.Machine.execHeartbeat tag token s
  | .tableSelect tag set table => Sys2Proof.Machine.execTableSelect tag set table s
  | .tableWrite tag set table index entry => Sys2Proof.Machine.execTableWrite tag set table index entry s
  | .tableRead tag set copy table index => Sys2Proof.Machine.execTableRead tag set copy table index s
  | .discard tag set => Sys2Proof.Machine.execDiscard tag set s
  | .commit tag set crc => Sys2Proof.Machine.execCommit tag set crc s
  | .lock tag => Sys2Proof.Machine.execLock tag s
  | .setTime tag second => Sys2Proof.Machine.execSetTime tag second s
  | .setpoint tag stall cap lend => Sys2Proof.Machine.execSetpoint tag stall cap lend s
  | .lineSelect tag line => Sys2Proof.Machine.execLineSelect tag line s
  | .lineTest tag line => Sys2Proof.Machine.execLineTest tag line s
  | .censusStart tag => Sys2Proof.Machine.execCensusStart tag s
  | .unknownRequest tag kind body => Sys2Proof.Machine.execUnknownRequest tag kind body s
  | .requestFrame tag kind body => Sys2Proof.Machine.execRequestFrame tag kind body s
  | .passthroughFrame dest kind tag body => Sys2Proof.Machine.execPassthroughFrame dest kind tag body s
  | .responseSent => Sys2Proof.Machine.execResponseSent s
  | .forwardFrameSent => Sys2Proof.Machine.execForwardFrameSent s
  | .eventFrameSent => Sys2Proof.Machine.execEventFrameSent s
  | .routineHoldExpiry => Sys2Proof.Machine.execRoutineHoldExpiry s
  | .badFrame line resync => Sys2Proof.Machine.execBadFrame line resync s
  | .gapError line => Sys2Proof.Machine.execGapError line s
  | .breakDetected line => Sys2Proof.Machine.execBreakDetected line s
  | .breakEnd line => Sys2Proof.Machine.execBreakEnd line s
  | .telemetry line dest src tag body => Sys2Proof.Machine.execTelemetry line dest src tag body s
  | .censusReport line dest src tag body => Sys2Proof.Machine.execCensusReport line dest src tag body s
  | .checkReply line dest src tag body => Sys2Proof.Machine.execCheckReply line dest src tag body s
  | .uplinkFrame line dest src kind tag body => Sys2Proof.Machine.execUplinkFrame line dest src kind tag body s
  | .sample dest tag body => Sys2Proof.Machine.execSample dest tag body s
  | .dispatchActivate dest tag rest => Sys2Proof.Machine.execDispatchActivate dest tag rest s
  | .dispatchRelease dest tag rest => Sys2Proof.Machine.execDispatchRelease dest tag rest s
  | .pollSent => Sys2Proof.Machine.execPollSent s
  | .censusSent => Sys2Proof.Machine.execCensusSent s
  | .setSent => Sys2Proof.Machine.execSetSent s
  | .passthroughSent => Sys2Proof.Machine.execPassthroughSent s
  | .fillSent line => Sys2Proof.Machine.execFillSent line s
  | .checkSent line => Sys2Proof.Machine.execCheckSent line s
  | .testFrameSent => Sys2Proof.Machine.execTestFrameSent s
  | .testFrameLooped tag body => Sys2Proof.Machine.execTestFrameLooped tag body s
  | .testFrameTimeout => Sys2Proof.Machine.execTestFrameTimeout s
  | .pollWindowExpiry => Sys2Proof.Machine.execPollWindowExpiry s
  | .censusWindowExpiry => Sys2Proof.Machine.execCensusWindowExpiry s
  | .idleTimeout line => Sys2Proof.Machine.execIdleTimeout line s
  | .checkTimerExpiry line => Sys2Proof.Machine.execCheckTimerExpiry line s
  | .silenceTimeout line => Sys2Proof.Machine.execSilenceTimeout line s
  | .staleAgeReached stall => Sys2Proof.Machine.execStaleAgeReached stall s
  | .unreachableAgeReached stall => Sys2Proof.Machine.execUnreachableAgeReached stall s
  | .meterStalenessExpiry => Sys2Proof.Machine.execMeterStalenessExpiry s
  | .minuteTick => Sys2Proof.Machine.execMinuteTick s
  | .allocationPeriodExpiry => Sys2Proof.Machine.execAllocationPeriodExpiry s
  | .pathSecondTick => Sys2Proof.Machine.execPathSecondTick s
  | .activationMinute => Sys2Proof.Machine.execActivationMinute s
  | .activationLimit => Sys2Proof.Machine.execActivationLimit s
  | .heartbeatTimerExpiry => Sys2Proof.Machine.execHeartbeatTimerExpiry s
  | .octetReceived line o => Sys2Proof.Machine.execOctetReceived line o s
  | .frameDiscarded line => Sys2Proof.Machine.execFrameDiscarded line s

end Sys2Proof.Machine
end

