-- ==== Sys2Proof/Machine/Step.lean ====
section
/-! DEFINITION. The step: the command at the front of the queue, or a second of CLKIN when none waits. -/

namespace Sys2Proof.Machine

open Sys2Proof

/-- A step with nothing waiting: one second passes for the counts of whole seconds (log 6). -/
def State.idle (s : State) : State := s.idleSecond.finish

/-- One step: the command at the front is run with the queue's rest (log 1). -/
def step (s : State) : Host.Outcome State Fault Refusal :=
  match s.pending with
  | c :: rest => exec c { s with pending := rest }
  | [] => .next s.idle

/-- The command a word spells is put at the front of the queue; none of the table's rows has bits (log 1). -/
def State.withFetchWord (s : State) (nbits w : Nat) : State :=
  match decodeTableWord nbits w with
  | some c => { s with pending := c :: s.pending }
  | none => s

end Sys2Proof.Machine
end

