-- ==== Sys2Proof/Safety.lean ====
section
/-! DEFINITION. What counts as a safe state, and what a command leaves as it was. Claims are stated in these terms. -/

namespace Sys2Proof.Machine

open Sys2Proof

/-! ## What is left as it was -/

/-- An entry of the setpoint queue without its in-flight mark. -/
def SetEntry.key (e : SetEntry) : StallIx × Bool := (e.stall, e.reserve)

/-- The records in the event queue, in order, without their in-flight marks. -/
def State.records (s : State) : List EventRec := s.events.queue.map (·.record)

/-- What the free transmitters may have started since a state (R22, R29, R160): every field of the state is as it was
but for the frame each line is sending, the poll position and counts of R22, the CHECK rotation, the marks of what is
being sent, and the flags and hold timer of the Event Queue; the queues keep their entries, in order. -/
structure Started (u t : State) : Prop where
  rest : t = { u with
    lineA := { u.lineA with tx := t.lineA.tx, rotation := t.lineA.rotation, checkDue := t.lineA.checkDue }
    lineB := { u.lineB with tx := t.lineB.tx, rotation := t.lineB.rotation, checkDue := t.lineB.checkDue }
    pollPos := t.pollPos
    between := t.between
    setQ := t.setQ
    census := { u.census with outstanding := t.census.outstanding }
    office := { u.office with tx := t.office.tx }
    events := t.events }
  setQ : t.setQ.map SetEntry.key = u.setQ.map SetEntry.key
  records : t.records = u.records

/-- The command completes with the effect `u`: it answers the next state to which the free transmitters bring `u` at the
end of a command (log 3). -/
def Ends (c : Instr) (s u : State) : Prop := exec c s = .next u.finish

/-- A receiver after a reset: HUNT, or BREAK while the input is at space, with nothing begun (R36, R66, R174). -/
def receiverAfterReset (x : Receiver) : Receiver :=
  ⟨if x.atSpace then .brk else .hunt, [], false, x.atSpace, false⟩

/-- A stall line's registers after a reset, the level of its input apart, with a health and a qualification count (R36). -/
def lineAfterReset (x : StallLineState) (h : Health) (q : Nat) : StallLineState where
  rx := receiverAfterReset x.rx
  health := h
  qual := q
  silence := 0
  unanswered := 0
  rotation := none
  checkOut := none
  checkDue := false
  errors := 0
  tx := none

/-- What every reset, of any kind, makes of the blocks from `s` to `u`: the reset tables where their columns agree. -/
structure BlocksAfterReset (s u : State) : Prop where
  /-- The Office Port and the Supervision Monitor (R174). -/
  office     : u.office = {
    rx := receiverAfterReset s.office.rx, errors := 0, inbound := [], inHand := none, slot := none
    forward := [], dropMark := false, dropCount := 0, tx := none }
  superv     : u.superv = ⟨false, false, 0, 0⟩
  /-- The stall lines' queues and counts (R36). -/
  lines      : u.setQ = [] ∧ u.passQ = [] ∧ u.window = none ∧ u.test = none ∧ u.pollPos = none ∧ u.between = 0
  /-- The Site Monitor (R66). -/
  site       : u.site = {
    rx := receiverAfterReset s.site.rx, errors := 0, fresh := false, sample := none, fleetPower := 0
    lastLoad := none, low := false, trip := 0, restore := 0 }
  /-- The stall records but for the service status (R54, R88, R111, R124, R137). -/
  stalls     : ∀ i, u.stall i = {
    inService := (u.stall i).inService, occ := .vacant, fresh := .none, age := 0, bus := none, fleetNo := none
    plugged := false, power := 0, fault := 0, baseline := none, residue := 0, partner := none, prot := false
    grant := 0, condGrant := 0, cap := none, lend := true, controller := .allocator, sp := ⟨0, 0, 0⟩, handed := 0
    lastPosted := 0, owner := none, discharge := 0 }
  /-- The bus records but for the estimate (R54, R137). -/
  buses      : ∀ b, (u.bus b).stall = none ∧ (u.bus b).lendable = 0
  /-- The Allocator: every figure of the record 0, its timer restarted with the live period (R110, R111). -/
  alloc      : u.alloc = {
    remaining := u.policy.live.params.period, roundCount := 0, ramp := 0
    record := {
      minute := some 0, feeder := 0, ceiling := 0, load := 0, cond := 0, hard := 0, soft := 0, softPlain := 0
      modif := .none, ramp := 0, chargeSum := 0, handedOut := 0, unused := some 0 } }
  /-- The path second count, storage and the reserve (R124, R137, R156). -/
  pathSecond : u.pathSecond = 0
  storage    : u.storage = ⟨.inhibited, none, 0, 0⟩
  reserve    : u.reserve = ⟨.disarmed, none, none, []⟩

/-- Everything outside the depot's records is as it was: all but stall and bus records, departures, the setpoint
queue, storage, the reserve, the ramp ceiling and the event queue. -/
def KeepsOutside (s t : State) : Prop :=
  t = { s with
    stalls := t.stalls
    buses := t.buses
    deps := t.deps
    setQ := t.setQ
    storage := t.storage
    reserve := t.reserve
    alloc := { s.alloc with ramp := t.alloc.ramp }
    events := t.events }

/-- The Session Table's fields of a stall record (3.1), and its grants, are as they were. -/
structure SameSession (x y : Stall) : Prop where
  inService : y.inService = x.inService
  occ       : y.occ = x.occ
  fresh     : y.fresh = x.fresh
  age       : y.age = x.age
  bus       : y.bus = x.bus
  fleetNo   : y.fleetNo = x.fleetNo
  plugged   : y.plugged = x.plugged
  power     : y.power = x.power
  fault     : y.fault = x.fault
  baseline  : y.baseline = x.baseline
  residue   : y.residue = x.residue
  partner   : y.partner = x.partner
  grant     : y.grant = x.grant
  condGrant : y.condGrant = x.condGrant

/-- A bus record (3.2) is as it was but for its lendable energy. -/
structure SameBus (x y : Bus) : Prop where
  energy  : y.energy = x.energy
  carried : y.carried = x.carried
  stall   : y.stall = x.stall

/-! ## The census -/

/-- The probe moves to the next listed address above it, or past the last one the census ends, with CENSUS_DONE and the
number of PRESENT addresses (R9 step 6, R11). -/
def ProbeAdvances (s u : State) : Prop :=
  let ahead (c : DispIx) : Prop := (s.pres c).presence ≠ .unlisted ∧ ∀ p, s.census.probe = some p → p < c
  (∀ a, ahead a → (∀ c, ahead c → a ≤ c) → u = { s with census := { s.census with probe := some a } }) ∧
  ((∀ c, ¬ ahead c) → u = ({ s with census := { s.census with
    running := false, probe := none, outstanding := false } }).raise .censusDone .part
      (allDisps.countP fun d => (s.pres d).presence == Presence.present))

/-- The census starts (R7): every listed miss count is 0, the unlisted-seen set empty, and the lowest listed address
under probe; with none listed it ends at once, with CENSUS_DONE and a count of 0 (R11). -/
def CensusStarts (s u : State) : Prop :=
  (∀ a : DispIx, (s.pres a).presence ≠ .unlisted → (∀ c : DispIx, c < a → (s.pres c).presence = .unlisted) → u = { s with
    presence := tab fun d => if (s.pres d).presence = .unlisted then s.pres d else { s.pres d with miss := 0 }
    census := ⟨true, some a, false, Vector.replicate 24 false⟩ }) ∧
  ((∀ d : DispIx, (s.pres d).presence = .unlisted) →
    u = ({ s with census := ⟨false, none, false, Vector.replicate 24 false⟩ }).raise .censusDone .part 0)

/-- An outstanding probe is discarded (R12): its window is closed, and its frame, if it is still being sent, opens none,
the model's choice (log 10). -/
def probeDiscarded (s : State) : State :=
  let cut (x : StallLineState) : StallLineState :=
    match x.tx with
    | some (.census d _) => { x with tx := some (.census d false) }
    | _ => x
  { s with
    census := { s.census with outstanding := false }
    window := match s.window with
      | some (.census _) => none
      | w => w
    lineA := cut s.lineA
    lineB := cut s.lineB }

/-! ## Departures -/

/-- A departure record keeps its SCHEDULE fields (5.2). -/
structure SameEntry (d e : Departure) : Prop where
  fleet   : e.fleet = d.fleet
  minute  : e.minute = d.minute
  route   : e.route = d.route
  lead    : e.lead = d.lead
  power   : e.power = d.power
  enabled : e.enabled = d.enabled

/-- What an evaluation may make of a record: an open one stays open (R76); a terminal or DISABLED one, whose flags are
clear (R79, R80), is not touched. -/
structure EvaluatedFrom (d e : Departure) : Prop where
  entry  : SameEntry d e
  opened : d.state.isOpen = true → e.state.isOpen = true
  closed : d.state.isOpen = false → e.state = d.state ∧ (d.atRisk = false → e = d)

/-- The target T of a record of a bus (R75). -/
def targetFigure (s : State) (b : BusIx) (d : Departure) : Nat :=
  min (s.busEntry b).capacity (d.route + (s.busEntry b).floor * (s.busEntry b).capacity / 1000)

/-- The need N of a record of a bus (R75), an UNKNOWN estimate taken as 0. -/
def needFigure (s : State) (b : BusIx) (d : Departure) : Nat := targetFigure s b d - ((s.bus b).energy).getD 0

/-- The deadline D of a record at a second of day (R75). -/
def deadlineFigure (s : State) (d : Departure) (second : Nat) : Int :=
  (s.sdMinute d.minute : Int) - d.lead - s.sdMinute (second / 60)

/-- The record at place `k` of the list is the active departure of a bus of the roster: the earliest open one (R74). -/
def ActiveAt (s : State) (b : BusIx) (k : Nat) (d : Departure) : Prop :=
  d.state.isOpen = true ∧ (s.busEntry b).fleet ≠ 0 ∧ (s.busEntry b).enabled ≠ 0#8 ∧ d.fleet = (s.busEntry b).fleet ∧
    ∀ (j : Nat) (x : Departure), j < k → s.deps[j]? = some x → x.fleet = d.fleet → x.state.isOpen = false

/-- The open record at place `k` stands as the table of R76, and R77, give it from its bus and the clock. -/
structure Evaluated (s : State) (k : Nat) (d : Departure) : Prop where
  scheduled : (∀ b, s.rosterIx d.fleet = some b → ActiveAt s b k d → (s.bus b).stall = none) → d.state = .scheduled
  conditioning : ∀ b n, s.rosterIx d.fleet = some b → ActiveAt s b k d → (s.bus b).stall ≠ none → s.clock = some n →
    deadlineFigure s d n ≤ 0 → d.state = .conditioning ∧ (d.short = true ↔ 0 < needFigure s b d)
  charging : ∀ b, s.rosterIx d.fleet = some b → ActiveAt s b k d → (s.bus b).stall ≠ none →
    (∀ n, s.clock = some n → 0 < deadlineFigure s d n) → 0 < needFigure s b d → d.state = .charging
  ready : ∀ b, s.rosterIx d.fleet = some b → ActiveAt s b k d → (s.bus b).stall ≠ none →
    (∀ n, s.clock = some n → 0 < deadlineFigure s d n) → needFigure s b d = 0 → d.state = .ready
  short : d.short = true → d.state = .conditioning
  atRisk : d.atRisk = true → d.state = .charging ∨ d.state = .conditioning

/-- The shortfall R81 projects for a record, 0 for one not at risk. -/
def riskFigure (s : State) (b : BusIx) (d : Departure) (second : Nat) : Nat :=
  let t := deadlineFigure s d second
  let grant := match (s.bus b).stall with
    | some i => (s.stall i).grant
    | none => 0
  if 0 < t then targetFigure s b d - (((s.bus b).energy).getD 0 + grant * t.toNat / 6) else needFigure s b d

/-- A record is at risk (R81). -/
def AtRisk (s : State) (d : Departure) : Prop :=
  (d.state = .charging ∨ d.state = .conditioning) ∧
    ∃ b n, s.rosterIx d.fleet = some b ∧ s.clock = some n ∧ 0 < riskFigure s b d n

/-- A stall is to be protected (R82): in SESSION, its bus's active departure CONDITIONING or due within the horizon. -/
def Guarded (s : State) (i : StallIx) : Prop :=
  (s.stall i).occ = .session ∧ ∃ (b : BusIx) (k : Nat) (d : Departure), (s.stall i).bus = some b ∧
    s.deps[k]? = some d ∧ ActiveAt s b k d ∧
    (d.state = .conditioning ∨ ∃ n, s.clock = some n ∧ deadlineFigure s d n ≤ s.policy.live.params.urgentHorizon)

/-- Every open record stands evaluated (R76), and every stall's protected flag as R82 gives it. -/
structure Tracked (s : State) : Prop where
  evaluated : ∀ (k : Nat) (d : Departure), s.deps[k]? = some d → d.state.isOpen = true → Evaluated s k d
  guarded   : ∀ i, (s.stall i).prot = true ↔ Guarded s i

/-- What a move of the clock leaves: besides, every AT_RISK flag as R81 gives it. -/
structure Settles (s : State) : Prop extends Tracked s where
  atRisk : ∀ (k : Nat) (d : Departure), s.deps[k]? = some d → (d.atRisk = true ↔ AtRisk s d)

/-- The records whose service-day minute satisfies `p` are reached one at a time, in list order (R69, R71, R80). -/
def recordsReached (s : State) (p : Nat → Bool) : State :=
  ((List.range s.deps.length).filter fun k => (s.deps[k]?).any fun d => p (s.sdMinute d.minute)).foldl State.reachDep s

/-- The day roll (R72). -/
def dayRolled (s : State) : State := { s with deps := s.deps.map fun d => { d with
  state := if d.enabled then (if s.rosterIx d.fleet = none then .cancelled else .scheduled) else .disabled
  short := false
  atRisk := false } }

/-- What the Readiness Tracker hands on when it has acted on all buses: the protected flags are recomputed, the
Discharge Coordinator does `work`, and the Reserve Controller hears of each stall whose flag changed, ascending (R83). -/
def trackerHandsOn (s : State) (work : State → State) : State :=
  (allStalls.filter fun i => (s.stall i).prot != (s.recomputeProt.stall i).prot).foldl State.reserveProtected
    (work s.recomputeProt)

/-- What follows a move of the clock when the last record has been reached: every record is evaluated and its AT_RISK
flag recomputed (R76, R81), and the new flags and figures are handed on, last the time to the Reserve Controller (R69,
R71, R83, R126, R139, R151). -/
def timeFollows (s : State) : State :=
  (trackerHandsOn s.evalAll.riskAll fun v => allBuses.foldl State.reeval v).reserveTime

/-- The departure list is the records given, re-ordered under R73 and then evaluated (R84 to R86). -/
def Reordered (s : State) (ds : List Departure) (u : State) : Prop :=
  Tracked u ∧
  ∃ l : List Departure, l.Perm ds ∧ l.Pairwise (fun a b => s.depKey a ≤ s.depKey b) ∧ u.deps.length = l.length ∧
    ∀ (k : Nat) (d : Departure), l[k]? = some d → ∃ e, u.deps[k]? = some e ∧ EvaluatedFrom d e

/-- What becomes of the departure list where the records whose service-day minute satisfies `p` are reached one at a time
in list order (R80), after the day roll when `roll` holds (R72), and then all are settled (R76, R81, R82). A record that is open,
or after the roll enabled with its bus in the roster, ends when it is reached: CANCELLED with its bus not in the roster,
NOT_DEPARTED with its bus in SESSION and no earlier record of the bus left open, ABSENT otherwise. -/
def Reached (s : State) (roll : Bool) (p : Nat → Prop) (u : State) : Prop :=
  let alive (d : Departure) : Prop :=
    if roll then d.enabled = true ∧ s.rosterIx d.fleet ≠ none else d.state.isOpen = true
  let hit (d : Departure) : Prop := p (s.sdMinute d.minute)
  Settles u ∧ u.deps.length = s.deps.length ∧ ∀ (k : Nat) (d : Departure), s.deps[k]? = some d →
    ∃ e : Departure, u.deps[k]? = some e ∧ SameEntry d e ∧
      (¬ alive d → e.state = if roll then (if d.enabled then .cancelled else .disabled) else d.state) ∧
      (alive d → ¬ hit d → e.state.isOpen = true) ∧
      (alive d → hit d → s.rosterIx d.fleet = none → e.state = .cancelled) ∧
      ∀ b, alive d → hit d → s.rosterIx d.fleet = some b →
        let left := ∃ (j : Nat) (x : Departure), j < k ∧ s.deps[j]? = some x ∧ x.fleet = d.fleet ∧ alive x ∧ ¬ hit x
        ((s.bus b).stall ≠ none → ¬ left → e.state = .notDeparted) ∧
        ((s.bus b).stall = none ∨ left → e.state = .absent)

/-! ## The office port, as a request finds it -/

/-- A request that arrives is taken at once: the receiver is not in BREAK, nothing waits, nothing is in hand and the
response slot is empty (R158, R159). -/
structure PortFree (s : State) : Prop where
  rx      : s.office.rx.state ≠ .brk
  inbound : s.office.inbound = []
  inHand  : s.office.inHand = none
  slot    : s.office.slot = none

/-- A request that arrives waits: the receiver is not in BREAK, and a request is in hand or a response in the slot. -/
structure PortBusy (s : State) : Prop where
  rx   : s.office.rx.state ≠ .brk
  busy : s.office.inHand.isSome ∨ s.office.slot.isSome

/-- A request is answered: the response is in the slot, to the supervisor from the part, with the request's kind and
tag (R159); the receiver has had a valid frame. -/
def State.answered (s : State) (kind tag : Byte) (body : List Byte) : State :=
  { s with office := { s.office with
      rx := s.office.rx.afterValid
      slot := some ⟨addrSupervisor, addrPart, kind, tag, body⟩ } }

/-- The body length of a request's layout (12.6); a TABLE WRITE's depends on its table and is not given here. -/
def bodyLengthOf (kind : Byte) : Option Nat :=
  if kind = kIdentify ∨ kind = kReset ∨ kind = kLock ∨ kind = kCensusStart then some 0
  else if kind = kDiscard ∨ kind = kLineSelect ∨ kind = kLineTest then some 1
  else if kind = kStatusRead ∨ kind = kHeartbeat ∨ kind = kTableSelect then some 2
  else if kind = kSetpoint then some 3
  else if kind = kTableRead ∨ kind = kSetTime then some 4
  else if kind = kCommit then some 5
  else none

/-- What the five table requests do to one set, by its number: the set's own answer to each, the set changed as it
says and nothing else (10.4). -/
structure TableRequests {α : Type} (s : State) (set : Byte) (t : TableSet α) (k : SetKind α) (locked : Bool)
    (offender : Option (Nat × Nat)) (put : TableSet α → State) : Prop where
  select  : ∀ g table, Ends (.tableSelect g set table) s ((put (t.select k table).1).answered kTableSelect g
    (t.select k table).2)
  write   : ∀ g table index e, Ends (.tableWrite g set table index e) s
    ((put (t.write k locked table index e).1).answered kTableWrite g (t.write k locked table index e).2)
  read    : ∀ g copy table index, Ends (.tableRead g set copy table index) s
    (s.answered kTableRead g (t.read k copy table index))
  discard : ∀ g, Ends (.discard g set) s ((put t.discard.1).answered kDiscard g t.discard.2)
  commit  : ∀ g w, Ends (.commit g set w) s ((put (t.commit k locked w offender).1).answered kCommit g
    (t.commit k locked w offender).2)

/-! ## Octets -/

/-- A receiver takes a run of octets, and what each brings about. -/
def Receiver.feed (r : Receiver) : List Byte → Receiver × List RxEvent
  | [] => (r, [])
  | o :: os => (((r.octet o).1.feed os).1, (r.octet o).2 :: ((r.octet o).1.feed os).2)

/-! ## Safe states -/

/-- A stall does not charge and discharge at once (R114), and charges at no more than its grant (R112). -/
structure Stall.Lawful (x : Stall) : Prop where
  oneWay  : x.sp.charge = 0 ∨ x.sp.dis = 0
  granted : x.sp.charge ≤ x.grant

/-- The setpoint queue holds at most one entry per stall, reserve-marked entries ahead of the others (R26). -/
structure QueueOrdered (q : List SetEntry) : Prop where
  once  : q.Pairwise fun a b => a.stall ≠ b.stall
  first : q.Pairwise fun a b => b.reserve = true → a.reserve = true

/-- The queues keep within their capacities (R28, R158, R161, R177). -/
structure QueuesBounded (s : State) : Prop where
  events  : s.events.queue.length ≤ 64
  inbound : s.office.inbound.length ≤ 4
  forward : s.office.forward.length ≤ 32
  pass    : s.passQ.length ≤ 8

/-- The association law (3.1, R37): a stall's bus field is set exactly in SESSION, and a stall's bus field and a bus's
stall field always name each other, so each bus has at most one stall and each stall at most one bus. An OUT_OF_SERVICE
stall is VACANT (R5). -/
structure Associated (s : State) : Prop where
  session : ∀ i : StallIx, (s.stall i).bus ≠ none ↔ (s.stall i).occ = .session
  named   : ∀ (i : StallIx) (b : BusIx), (s.stall i).bus = some b ↔ (s.bus b).stall = some i
  vacant  : ∀ i : StallIx, (s.stall i).inService = false → (s.stall i).occ = .vacant

/-- The ownership law: a stall with no discharge owner has discharge 0 (08), one is owned by STORAGE only while storage
is SHAVING (R132 to R134), and while the reserve is ACTIVE or in RECOVERY storage is INHIBITED and owns none (R130,
R132). -/
structure OwnersLawful (s : State) : Prop where
  unowned : ∀ i : StallIx, (s.stall i).owner = none → (s.stall i).discharge = 0
  shaving : ∀ i : StallIx, (s.stall i).owner = some .storage → s.storage.state = .shaving
  yields  : s.reserve.state = .active ∨ s.reserve.state = .recovery →
    s.storage.state = .inhibited ∧ ∀ i : StallIx, (s.stall i).owner ≠ some .storage

/-- The used fleet numbers of a FLEET set are all different (R172). -/
def FleetDistinct (v : Vector BusEntry 64) : Prop :=
  ∀ b c : BusIx, v[b.val].fleet ≠ 0 → v[b.val].fleet = v[c.val].fleet → b = c

/-- A safe state of the part. The live FLEET set, and the draft once it is PENDING, have passed the check of R172. -/
structure Safe (s : State) : Prop where
  setpoints  : ∀ i : StallIx, (s.stall i).Lawful
  setQ       : QueueOrdered s.setQ
  bounded    : QueuesBounded s
  associated : Associated s
  owners     : OwnersLawful s
  fleet      : FleetDistinct s.fleet.live ∧ (s.fleet.pending = true → FleetDistinct s.fleet.draft)

/-- No PLANT draft is PENDING while the commissioning lock is set (R13). -/
def LockHolds (s : State) : Prop := s.lock = true → s.plant.pending = false

/-- The live table sets, with their live-empty marks and generations, are as they were. -/
structure KeepsLive (s t : State) : Prop where
  plant    : (t.plant.live, t.plant.liveEmpty, t.plant.generation) = (s.plant.live, s.plant.liveEmpty, s.plant.generation)
  fleet    : (t.fleet.live, t.fleet.liveEmpty, t.fleet.generation) = (s.fleet.live, s.fleet.liveEmpty, s.fleet.generation)
  schedule : (t.schedule.live, t.schedule.liveEmpty, t.schedule.generation) =
    (s.schedule.live, s.schedule.liveEmpty, s.schedule.generation)
  grid     : (t.grid.live, t.grid.liveEmpty, t.grid.generation) = (s.grid.live, s.grid.liveEmpty, s.grid.generation)
  policy   : (t.policy.live, t.policy.liveEmpty, t.policy.generation) =
    (s.policy.live, s.policy.liveEmpty, s.policy.generation)

end Sys2Proof.Machine
end

