-- ==== Sys2Proof/WellFormed.lean ====
section
/-! DEFINITION. Which terms of `Instr` stand for an occurrence the manual describes: bodies a frame can carry (R18),
and operands that fit their row. Every other term still runs: `exec` is total (log 2). -/

namespace Sys2Proof

/-- A body a frame can carry (R18). -/
def bodyFits (body : List Byte) : Bool := decide (body.length ≤ 240)

/-- A station address of a dispenser (00, Lines and frames). -/
def isDispenser (a : Byte) : Bool := decide (1 ≤ a.toNat) && decide (a.toNat ≤ 24)

/-- A kind the part serves as a request (12.3). -/
def isRequestKind (k : Byte) : Bool := decide (0x40 ≤ k.toNat) && decide (k.toNat ≤ 0x4E)

/-- The kinds of a stall-line frame that have a row of their own. -/
def hasOwnRow (k : Byte) : Bool := k == 0x11#8 || k == 0x14#8 || k == 0x16#8

/-- The command stands for an occurrence of its row. -/
def Instr.wellFormed : Instr → Bool
  | .tableWrite _ _ _ _ entry => decide (entry.length ≤ 237)
  | .unknownRequest _ kind body => !(isRequestKind kind) && bodyFits body
  | .requestFrame _ _ body => bodyFits body
  | .passthroughFrame dest _ _ body => isDispenser dest && bodyFits body
  | .telemetry _ _ _ _ body => bodyFits body
  | .censusReport _ _ _ _ body => bodyFits body
  | .checkReply _ _ _ _ body => bodyFits body
  | .uplinkFrame _ _ _ kind _ body => !(hasOwnRow kind) && bodyFits body
  | .sample _ _ body => bodyFits body
  | .dispatchActivate _ _ rest => decide (rest.length ≤ 239)
  | .dispatchRelease _ _ rest => decide (rest.length ≤ 239)
  | .testFrameLooped _ body => bodyFits body
  | .frameDiscarded line => line == .meter || line == .office
  | .powerOnReset | .hardwareReset _ | .softReset | .identify _ | .statusRead _ _ _ | .reset _ | .heartbeat _ _
  | .tableSelect _ _ _ | .tableRead _ _ _ _ _ | .discard _ _ | .commit _ _ _ | .lock _ | .setTime _ _
  | .setpoint _ _ _ _ | .lineSelect _ _ | .lineTest _ _ | .censusStart _ | .responseSent | .forwardFrameSent
  | .eventFrameSent | .routineHoldExpiry | .badFrame _ _ | .gapError _ | .breakDetected _ | .breakEnd _ | .pollSent
  | .censusSent | .setSent | .passthroughSent | .fillSent _ | .checkSent _ | .testFrameSent | .testFrameTimeout
  | .pollWindowExpiry | .censusWindowExpiry | .idleTimeout _ | .checkTimerExpiry _ | .silenceTimeout _
  | .staleAgeReached _ | .unreachableAgeReached _ | .meterStalenessExpiry | .minuteTick | .allocationPeriodExpiry
  | .pathSecondTick | .activationMinute | .activationLimit | .heartbeatTimerExpiry | .octetReceived _ _ => true

end Sys2Proof
end

