-- ==== Sys2Proof/Certificates/Slice0/Obligations.lean ====
section
/-! DEFINITION. The statements for the provers, by chapter. `Ends c s u` says that the command completes with the effect
`u`, and that the free transmitters then start what `TransmittersStartInOrder` says they start from `u`. -/

open Sys2Proof Sys2Proof.Machine

/-! ## The machine as a whole -/

/-- The queue of waiting commands is the model's own choice (log 1), not a rule of the spec: a step runs the command at
its front, whole, on the queue's rest. -/
def Obligations.StepRunsFrontCommand : Prop :=
  ∀ (c : Instr) (q : List Instr) (s : State), s.pending = c :: q → step s = exec c { s with pending := q }

/-- With nothing waiting a step is one second, and no threshold is reached in it (log 6): the clock and the elapsed
seconds of a running activation move within their minute; a FRESH age moves below 5 s, a STALE one below 30 s, an
UNREACHABLE one to 65535; the heartbeat timer, the allocation timer and the routine hold run down, held at 1; each
silence timer moves below 3 s, not in TEST. Nothing else moves. The model's choice, not a rule. -/
def Obligations.IdleStepReachesNoThreshold : Prop :=
  ∀ s : State, s.pending = [] → ∃ u : State, step s = .next u.finish ∧
    let down (n : Nat) : Nat := if n ≤ 1 then n else n - 1
    let second (n : Nat) : Nat := if n % 60 = 59 then n else n + 1
    (∀ i : StallIx, (u.stall i) = { s.stall i with age := (u.stall i).age } ∧
      ((s.stall i).fresh = .fresh → (u.stall i).age = if (s.stall i).age < 4 then (s.stall i).age + 1 else (s.stall i).age) ∧
      ((s.stall i).fresh = .stale → (u.stall i).age = if (s.stall i).age < 29 then (s.stall i).age + 1 else (s.stall i).age) ∧
      ((s.stall i).fresh = .unreachable →
        (u.stall i).age = if (s.stall i).age < 65535 then (s.stall i).age + 1 else (s.stall i).age) ∧
      ((s.stall i).fresh = .none → (u.stall i).age = (s.stall i).age)) ∧
    (∀ l : StallLine, u.line l = { s.line l with silence :=
      if (s.line l).health ≠ .test ∧ (s.line l).silence < 2 then (s.line l).silence + 1 else (s.line l).silence }) ∧
    u.clock = s.clock.map second ∧
    u.superv = { s.superv with timer := down s.superv.timer } ∧
    u.alloc = { s.alloc with remaining := down s.alloc.remaining } ∧
    u.events = { s.events with hold := s.events.hold.map down } ∧
    (s.reserve.state ≠ .active → u.reserve = s.reserve) ∧
    (s.reserve.state = .active →
      u.reserve = { s.reserve with act := s.reserve.act.map fun a => { a with elapsed := second a.elapsed } }) ∧
    u = { s with
      stalls := u.stalls, lineA := u.lineA, lineB := u.lineB, clock := u.clock, superv := u.superv, alloc := u.alloc
      events := u.events, reserve := u.reserve }

/-- Every command completes, in every state, and leaves the commands that wait behind it. The model's choice, not a
rule: a command whose occurrence cannot take place leaves the state as it is (log 2, DEDUCED), and the queue is log
1. -/
def Obligations.EveryCommandCompletes : Prop :=
  ∀ (c : Instr) (s : State), ∃ t, exec c s = .next t ∧ t.pending = s.pending

/-- The state after a power-on reset is safe. -/
def Obligations.ResetIsSafe : Prop := Safe State.reset ∧ LockHolds State.reset

/-- Every step keeps a safe state safe: no stall charges and discharges at once or charges above its grant (R112,
R114); a stall names a bus exactly in SESSION, and the bus its stall, one each (3.1, R37), and is VACANT while
OUT_OF_SERVICE (R5); no stall discharges for STORAGE while the reserve is ACTIVE or in RECOVERY, or storage is not
SHAVING (R130, R132, R145); each fleet number stands once in a FLEET set that is in use or PENDING (R172); the setpoint
queue keeps its order and one entry per stall (R26), and the queues keep within their capacities. -/
def Obligations.StepKeepsSafe : Prop := ∀ s t : State, Safe s → step s = .next t → Safe t

/-- The live table sets, their live-empty marks and their generations change only at an expiry of the allocation period
and at a power-on reset (R173, R174). -/
def Obligations.LiveSetsChangeOnlyAtExpiry : Prop :=
  ∀ (c : Instr) (s t : State), c ≠ .powerOnReset → c ≠ .allocationPeriodExpiry → exec c s = .next t → KeepsLive s t

/-- No command makes the PLANT draft PENDING while the lock is set, or sets the lock while it is PENDING; and an expiry
of the allocation period changes no live PLANT set while the lock is set (R13). -/
def Obligations.LockKeepsLivePlant : Prop :=
  (∀ (c : Instr) (s t : State), LockHolds s → exec c s = .next t → LockHolds t) ∧
  ∀ s t : State, LockHolds s → s.lock = true → exec .allocationPeriodExpiry s = .next t →
    t.plant = s.plant ∧ t.lock = true

/-- What the free transmitters start from a state `u`, and nothing else. The office line goes by the order of R160, an
event frame with the waiting records of R179, each of which takes the in-flight mark, and the hold stops where no
routine record is left waiting (R178). The ACTIVE line goes by R22: with no window open a due CENSUS before a POLL, to
the next PRESENT address of R24, the lowest above the position or else the lowest of all, before what is queued; with
one open what is queued; a SET carries the stall's setpoint in force, and its entry takes the in-flight mark (R27,
12.4). The STANDBY line sends a CHECK that is due (R29). None starts a frame while one is sent, and where no POLL, SET
or CENSUS frame starts, the poll position, the setpoint queue and the census stand as they were; the ACTIVE line's
CHECK rotation always does. That they start at the end of a command is log 3; how R8 is read for a frame cut short, log
10; that a CHECK stays due while no dispenser is PRESENT is the model's choice (log 32). -/
def Obligations.TransmittersStartInOrder : Prop :=
  ∀ u : State, let t := u.finish
    let waiting (c : EventClass) := (u.events.queue.filter fun q => q.record.cls == c && !q.inFlight).map (·.record)
    let ahead (c : EventClass) (k : Nat) : Nat :=
      ((u.events.queue.take k).filter fun q => q.record.cls == c && !q.inFlight).length
    let due := if u.presentCount = 0 ∨ u.between < 4 then u.probeDue else none
    Started u t ∧
    (∀ o rs, (OfficeTx.frame (.event o rs)).body.length = 2 + 10 * rs.length) ∧
    (∀ x, u.office.tx = some x → t.office.tx = some x ∧ t.events = u.events) ∧
    (u.office.tx = none → ∀ f, u.office.slot = some f → t.office.tx = some (.response f) ∧ t.events = u.events) ∧
    (u.office.tx = none → u.office.slot = none →
      (waiting .urgent = [] → ∀ f q, u.office.forward = f :: q → t.office.tx = some (.forward f) ∧ t.events = u.events) ∧
      (waiting .urgent ≠ [] ∨ (u.office.forward = [] ∧ u.events.released = true ∧ waiting .routine ≠ []) →
        t.office.tx = some (.event u.events.overflow ((waiting .urgent ++ waiting .routine).take 8)) ∧
          t.events.overflow = false ∧
          (∀ (k : Nat) (q : QueuedRec), u.events.queue[k]? = some q → ∃ r : QueuedRec, t.events.queue[k]? = some r ∧
            r.record = q.record ∧ (r.inFlight = true ↔ q.inFlight = true ∨ (q.record.cls = .urgent ∧ ahead .urgent k < 8) ∨
              (q.record.cls = .routine ∧ (waiting .urgent).length + ahead .routine k < 8))) ∧
          let kept : Bool := t.events.queue.any fun q => q.record.cls == .routine && !q.inFlight
          t.events.hold = (if kept then u.events.hold else none) ∧ t.events.released = (kept && u.events.released)) ∧
      (waiting .urgent = [] → u.office.forward = [] → u.events.released = false ∨ waiting .routine = [] →
        t.office.tx = none ∧ t.events = u.events)) ∧
    (∀ a, u.probeDue = some a ↔ u.census.running = true ∧ u.census.outstanding = false ∧ u.census.probe = some a ∧
      (u.presentCount = 0 ∨ u.probed = false)) ∧
    (∀ pos d, u.nextPresent pos = some d → (u.pres d).presence = .present ∧
      (∀ c, (u.pres c).presence = .present → (d ≤ c ∨ ∃ p, pos = some p ∧ c ≤ p) ∧ (∀ p, pos = some p → p < c → p < d)) ∧
      ((∀ c, (u.pres c).presence = .present → ∀ p, pos = some p → c ≤ p) → ∀ c, (u.pres c).presence = .present → d ≤ c)) ∧
    (∀ pos, u.nextPresent pos = none ↔ u.presentCount = 0) ∧
    u.presentCount = (allDisps.filter fun d => (u.pres d).presence == .present).length ∧
    t.line u.active = { u.line u.active with tx := (t.line u.active).tx } ∧
    ((t.line u.active).tx = (u.line u.active).tx →
      t.pollPos = u.pollPos ∧ t.between = u.between ∧ t.setQ = u.setQ ∧ t.census = u.census) ∧
    ((∀ d p, (t.line u.active).tx ≠ some (.poll d p)) → t.pollPos = u.pollPos) ∧
    ((∀ i a b c, (t.line u.active).tx ≠ some (.set i a b c)) → t.setQ = u.setQ) ∧
    ((∀ d k, (t.line u.active).tx ≠ some (.census d k)) → t.census = u.census) ∧
    (∀ x, (u.line u.active).tx = some x → (t.line t.active).tx = some x) ∧
    (u.configured = false ∨ (u.line u.active).health = .test → (t.line t.active).tx = (u.line u.active).tx) ∧
    (u.configured = true → (u.line u.active).tx = none → (u.line u.active).health ≠ .test →
      (u.window = none → (∀ a, due = some a →
          (t.line t.active).tx = some (.census a true) ∧ t.census.outstanding = true ∧ t.between = min 4 (u.between + 1)) ∧
        (due = none → ∀ d, u.nextPresent u.pollPos = some d →
          (t.line t.active).tx = some (.poll d u.pollPos) ∧ t.pollPos = some d ∧ t.between = 0)) ∧
      (u.window ≠ none → 0 < u.presentCount → 4 ≤ u.between → (t.line t.active).tx = none) ∧
      ((u.window = none ∧ due = none ∧ u.nextPresent u.pollPos = none) ∨
          (u.window ≠ none ∧ (u.presentCount = 0 ∨ u.between < 4)) →
        (∀ e q, u.setQ = e :: q → t.between = min 4 (u.between + 1) ∧
          t.setQ = (u.setQ.map fun x => if x.stall = e.stall then { x with inFlight := true } else x) ∧ t.sending t.active.line =
          some ⟨addrOf (dispOf e.stall), 0#8, 0x12#8, 0#8, [oct (portOf e.stall), oct (u.stall e.stall).sp.charge,
            oct (u.stall e.stall).sp.cond, oct (u.stall e.stall).sp.dis]⟩) ∧
        (∀ f q, u.setQ = [] → u.passQ = f :: q → (t.line t.active).tx = some (.pass f) ∧
          t.between = min 4 (u.between + 1)) ∧
        (u.setQ = [] → u.passQ = [] → (t.line t.active).tx = none))) ∧
    let x := u.line u.standby
    (x.checkDue = true → x.tx = none → x.health ≠ .test → ∀ d, u.nextPresent x.rotation = some d →
      t.line u.standby = { x with tx := some (.check d), rotation := some d, checkDue := false }) ∧
    (x.checkDue = false ∨ x.tx ≠ none ∨ x.health = .test ∨ u.presentCount = 0 → t.line u.standby = x)

/-! ## Resets -/

/-- The values of every block after a power-on reset, each table set whole (PLANT, FLEET, SCHEDULE and GRID empty and
marked so, POLICY with the defaults of R170 and the default classes of R176, drafts copies of live, OPEN, generations
0), and that the command takes every field to them; only the levels of the line inputs, which the part does not drive,
and the model's own fields come from before it (R15, R36, R54, R66, R88, R111, R124, R137, R156, R174, R181; log 5, log
7). That the classes of codes naming no kind are ROUTINE is log 15 (DESIGN CHOICE). `BlocksAfterReset` gives every
field of the blocks whose reset values the three resets share. -/
def Obligations.PowerOnReset : Prop :=
  let r := State.reset
  let started (α : Type) (t : TableSet α) (x : α) (isEmpty : Bool) : Prop := t =
    { live := x, liveEmpty := isEmpty, generation := 0, draft := x, pending := false, selected := 0, cursor := 0 }
  started _ r.plant ⟨⟨0, 0, 0⟩, Vector.replicate 6 ⟨false, 0⟩, Vector.replicate 24 ⟨false, some 0, 0, 0, 0, 0, false⟩⟩ true ∧
  started _ r.fleet (Vector.replicate 64 ⟨0, 0, 0, 0, 0, 0#8, 0#8⟩) true ∧
  started _ r.schedule (Vector.replicate 96 ⟨0, 0, 0, 0, 0, 0#8⟩) true ∧
  started _ r.grid ⟨Vector.replicate 16 ⟨false, 0, 0, 0, 0, false⟩, ⟨0, 0, 0, 0⟩, Vector.replicate 48 0⟩ true ∧
  (∃ classes, (∀ k : Fin 64, classes[k.val] =
      if k.val ∈ [1, 3, 9, 13, 20, 22, 28, 31, 39, 48, 49, 52] then EventClass.urgent else EventClass.routine) ∧
    started _ r.policy ⟨{
      period := 2, urgentHorizon := 60, protectHorizon := 180, chargeTo := 900, guestCeiling := 20, releaseWindow := 45
      rampStep := 100, storageEnable := false, shaveThreshold := 20, heartbeatPeriod := 30, batchThreshold := 8
      holdTime := 10, dayRoll := 1080, fallbackLoad := 200, autoSwitch := true }, classes⟩ false) ∧
  (r.lock = false ∧ r.configured = false ∧ r.resetCause = .power ∧ r.superv = ⟨false, false, 0, 0⟩) ∧
  (∀ l, (r.line l).health = .failed ∧ (r.line l).qual = 0 ∧ (r.line l).errors = 0 ∧ (r.line l).tx = none) ∧
  (r.active = .a ∧ r.setQ = [] ∧ r.passQ = [] ∧ r.window = none ∧ r.pollPos = none ∧ r.between = 0) ∧
  (∀ d, r.pres d = ⟨.unlisted, 0, none⟩) ∧ (r.census.running = false ∧ r.census.probe = none) ∧
  (∀ i, (r.stall i).inService = false ∧ (r.stall i).occ = .vacant ∧ (r.stall i).fresh = .none ∧ (r.stall i).age = 0 ∧
    (r.stall i).bus = none ∧ (r.stall i).sp = ⟨0, 0, 0⟩ ∧ (r.stall i).grant = 0 ∧ (r.stall i).controller = .allocator ∧
    (r.stall i).owner = none ∧ (r.stall i).cap = none ∧ (r.stall i).lend = true) ∧
  (∀ b, (r.bus b).energy = none ∧ (r.bus b).carried = false ∧ (r.bus b).stall = none ∧ (r.bus b).lendable = 0) ∧
  (r.clock = none ∧ r.deps = [] ∧ r.site.fresh = false ∧ r.site.low = false ∧ r.alloc.roundCount = 0 ∧
    r.pathSecond = 0) ∧
  (r.storage.state = .inhibited ∧ r.reserve.state = .disarmed ∧ r.reserve.act = none ∧ r.reserve.held = []) ∧
  r.records = [⟨.start, .urgent, .part, 0, none⟩] ∧
  r.events = ⟨[⟨⟨.start, .urgent, .part, 0, none⟩, false⟩], false, none, false⟩ ∧
  ∀ s : State, let u := { r with
    office := .afterReset s.office.rx.atSpace
    lineA := .afterReset s.lineA.rx.atSpace
    lineB := .afterReset s.lineB.rx.atSpace
    site := .afterReset s.site.rx.atSpace
    freeCount := s.freeCount
    pending := s.pending }
    Ends .powerOnReset s u ∧ BlocksAfterReset s u ∧ ∀ l, u.line l = lineAfterReset (s.line l) .failed 0

/-- A hardware reset keeps the live sets and generations, makes each draft a copy of live, and clears the lock only
with SERVICE high. Every register of the two lines has its value of R36. The departure list is rebuilt from the live
SCHEDULE set in the order of R73, its records as just after a day roll (R88). The census starts, at the lowest listed
address, when a live PLANT set exists, and ends at once with CENSUS_DONE when that lists none (R7, R11, R14, R15, R174,
R181). That START stands before that CENSUS_DONE is the model's reading (log 24, DEDUCED). Every other block is as its
reset table gives: the Office Port, the Site Monitor, the stall and bus records, the Allocator, the Setpoint Path,
storage, the reserve and the Event Queue (`BlocksAfterReset`; R54, R66, R88, R111, R124, R137, R156, R174, R181). -/
def Obligations.HardwareReset : Prop :=
  ∀ (service : Bool) (s : State), ∃ u, Ends (.hardwareReset service) s u ∧
    KeepsLive s u ∧ (u.plant.draft = s.plant.live ∧ u.plant.pending = false ∧ u.plant.cursor = 0) ∧
    (u.fleet.draft = s.fleet.live ∧ u.schedule.draft = s.schedule.live ∧ u.grid.draft = s.grid.live ∧
      u.policy.draft = s.policy.live) ∧
    (u.lock = (s.lock && !service)) ∧ (u.resetCause = if service then .hardwareService else .hardware) ∧
    (u.configured = !s.plant.liveEmpty) ∧ (u.superv = ⟨false, false, 0, 0⟩) ∧ u.clock = none ∧ u.active = .a ∧
    (∀ d : DispIx, u.pres d = ⟨if s.plant.live.dispensers[d.val].listed then .unprobed else .unlisted, 0, none⟩) ∧
    (∀ i : StallIx, (u.stall i).inService = false ∧ (u.stall i).occ = .vacant ∧ (u.stall i).sp = ⟨0, 0, 0⟩ ∧
      (u.stall i).prot = false) ∧
    (∀ b : BusIx, (u.bus b).energy = none ∧ (u.bus b).stall = none) ∧
    (u.setQ = [] ∧ u.passQ = [] ∧ u.window = none ∧ u.office.slot = none ∧ u.office.inbound = []) ∧
    (u.pollPos = none ∧ u.between = 0 ∧ u.test = none ∧ u.office.inHand = none) ∧
    (∀ l, u.line l = lineAfterReset (s.line l) .failed 0) ∧
    (u.census.running = (!s.plant.liveEmpty && s.plant.live.dispensers.any (·.listed))) ∧
    (u.census.outstanding = false ∧ u.census.unlistedSeen = Vector.replicate 24 false) ∧
    (∀ d : DispIx, u.census.probe = some d ↔ s.plant.liveEmpty = false ∧ s.plant.live.dispensers[d.val].listed = true ∧
      ∀ c : DispIx, c < d → s.plant.live.dispensers[c.val].listed = false) ∧
    (∃ rest, u.records = ⟨.start, .urgent, .part, if service then 2 else 1, none⟩ :: rest ∧
      rest.map (fun r => (r.kind, r.subject, r.param, r.time)) =
        if s.plant.liveEmpty = false ∧ s.plant.live.dispensers.any (·.listed) = false then [(.censusDone, .part, 0, none)]
        else []) ∧
    (∀ d ∈ u.deps, d.state = .disabled ∨ d.state = .scheduled ∨ d.state = .cancelled) ∧
    (∀ b k, u.activeOf b = some k ↔ ∃ d, u.deps[k]? = some d ∧ ActiveAt u b k d) ∧
    let fresh (e : DepEntry) : Departure := ⟨e.fleet, e.minute, e.route, e.lead, e.power, e.enabled != 0#8,
      if e.enabled = 0#8 then .disabled else if s.rosterIx e.fleet = none then .cancelled else .scheduled, false, false⟩
    u.deps.Perm ((s.schedule.live.toList.filter fun e => e.fleet != 0).map fresh) ∧
    u.deps.Pairwise (fun a b => u.depKey a ≤ u.depKey b) ∧
    BlocksAfterReset s u ∧ (∀ b : BusIx, u.bus b = ⟨none, false, none, 0⟩) ∧
    let kept (α : Type) (t : TableSet α) : TableSet α := { t with draft := t.live, pending := false, selected := 0, cursor := 0 }
    (u.plant = kept _ s.plant ∧ u.fleet = kept _ s.fleet ∧ u.schedule = kept _ s.schedule ∧ u.grid = kept _ s.grid ∧
      u.policy = kept _ s.policy) ∧
    let started : EventQueue := ⟨[⟨⟨.start, .urgent, .part, if service then 2 else 1, none⟩, false⟩], false, none, false⟩
    u.events = if s.plant.liveEmpty = false ∧ s.plant.live.dispensers.any (·.listed) = false then
      ({ u with events := started }.raise .censusDone .part 0).events else started

/-- A soft reset keeps the tables, the lock, the device state, the clock, the roles and health of the lines, with every
other register of a line as R36 gives, the presence records but for their miss counts, and known estimates, marked
carried (R15, R36, R54, R165, R174). It keeps the departure list and its active departures, the open records SCHEDULED
and every flag clear (R88), and starts the census afresh, which ends at once with CENSUS_DONE when none is listed (R7,
R11, R12); that START stands before it, and that the census starts also while UNCONFIGURED, is the model's reading (log
24, DEDUCED). A LINE TEST in progress ends with the health and count it remembered, the model's reading (log 20,
DEDUCED). Every other block is as its reset table gives, as after a hardware reset (`BlocksAfterReset`; R54, R66, R88,
R111, R124, R137, R156, R174, R181). -/
def Obligations.SoftReset : Prop :=
  ∀ s : State, ∃ u, Ends .softReset s u ∧
    KeepsLive s u ∧ (u.plant.draft = s.plant.live ∧ u.plant.pending = false) ∧
    u.lock = s.lock ∧ u.configured = s.configured ∧ u.resetCause = .soft ∧ u.superv = ⟨false, false, 0, 0⟩ ∧
    u.clock = s.clock ∧ u.active = s.active ∧
    (∀ l, (∀ x, s.test = some x → x.line ≠ l) →
      u.line l = lineAfterReset (s.line l) (s.line l).health (s.line l).qual) ∧
    (∀ x, s.test = some x → u.line x.line = lineAfterReset (s.line x.line) x.savedHealth x.savedQual) ∧
    (u.test = none ∧ u.office.inHand = none ∧ u.pollPos = none ∧ u.between = 0) ∧
    (∀ d : DispIx, u.pres d = { s.pres d with miss := 0 }) ∧
    (∀ b : BusIx, u.bus b = ⟨(s.bus b).energy, (s.bus b).energy.isSome, none, 0⟩) ∧
    (∀ i : StallIx, (u.stall i).occ = .vacant ∧ (u.stall i).fresh = .none ∧ (u.stall i).bus = none ∧
      (u.stall i).sp = ⟨0, 0, 0⟩ ∧ (u.stall i).grant = 0 ∧ (u.stall i).cap = none ∧ (u.stall i).prot = false ∧
      (u.stall i).inService = s.serviceOf i) ∧
    (u.setQ = [] ∧ u.passQ = [] ∧ u.window = none ∧ u.office.slot = none ∧ u.office.inbound = []) ∧
    (u.deps = s.deps.map (fun d => { d with
        state := if d.state.isOpen then .scheduled else d.state, short := false, atRisk := false }) ∧
      ∀ b, u.activeOf b = s.activeOf b) ∧
    (u.census.outstanding = false ∧ u.census.unlistedSeen = Vector.replicate 24 false ∧
      (u.census.running = true ↔ ∃ d, (s.pres d).presence ≠ .unlisted) ∧
      ∀ d, u.census.probe = some d ↔ (s.pres d).presence ≠ .unlisted ∧
        ∀ c : DispIx, c < d → (s.pres c).presence = .unlisted) ∧
    (∃ rest, u.records = ⟨.start, .urgent, .part, 3, s.clock⟩ :: rest ∧
      ((∃ d, (s.pres d).presence ≠ .unlisted) → rest = []) ∧
      ((∀ d, (s.pres d).presence = .unlisted) →
        rest.map (fun r => (r.kind, r.subject, r.param, r.time)) = [(.censusDone, .part, 0, s.clock)])) ∧
    u.reserve.state = .disarmed ∧
    BlocksAfterReset s u ∧
    let kept (α : Type) (t : TableSet α) : TableSet α := { t with draft := t.live, pending := false, selected := 0, cursor := 0 }
    (u.plant = kept _ s.plant ∧ u.fleet = kept _ s.fleet ∧ u.schedule = kept _ s.schedule ∧ u.grid = kept _ s.grid ∧
      u.policy = kept _ s.policy) ∧
    let started : EventQueue := ⟨[⟨⟨.start, .urgent, .part, 3, s.clock⟩, false⟩], false, none, false⟩
    u.events = if ∀ d, (s.pres d).presence = .unlisted then
      ({ u with events := started }.raise .censusDone .part 0).events else started

/-! ## The office port (10) -/

/-- Each request command is the arrival of a request frame of its kind, its fields in the body (12.6, log 13). A
request frame that arrives while another is in hand or unanswered joins the inbound queue, or, when 4 wait, is
discarded with OFFICE_OVERRUN and its tag (R158); in BREAK none arrives (R19). Taken, a kind the part does not serve is
answered UNKNOWN, and a body length that disagrees with the kind's layout RANGE; neither changes anything; any other is
in hand while it is served, and answered with what its kind brings, at once or later (R159). -/
def Obligations.RequestFramesArriveWaitOrAreRefused : Prop :=
  (∀ (s : State) (g a b c d : Byte) (e : List Byte) (h : BitVec 16) (w : BitVec 32),
    exec (.identify g) s = exec (.requestFrame g 0x40#8 []) s ∧
    exec (.statusRead g a b) s = exec (.requestFrame g 0x41#8 [a, b]) s ∧
    exec (.reset g) s = exec (.requestFrame g 0x42#8 []) s ∧
    exec (.heartbeat g h) s = exec (.requestFrame g 0x43#8 (be16 h.toNat)) s ∧
    exec (.tableSelect g a b) s = exec (.requestFrame g 0x44#8 [a, b]) s ∧
    exec (.tableWrite g a b c e) s = exec (.requestFrame g 0x45#8 (a :: b :: c :: e)) s ∧
    exec (.tableRead g a b c d) s = exec (.requestFrame g 0x46#8 [a, b, c, d]) s ∧
    exec (.discard g a) s = exec (.requestFrame g 0x47#8 [a]) s ∧
    exec (.commit g a w) s = exec (.requestFrame g 0x48#8 (a :: be32 w.toNat)) s ∧
    exec (.lock g) s = exec (.requestFrame g 0x49#8 []) s ∧
    exec (.setTime g w) s = exec (.requestFrame g 0x4A#8 (be32 w.toNat)) s ∧
    exec (.setpoint g a b c) s = exec (.requestFrame g 0x4B#8 [a, b, c]) s ∧
    exec (.lineSelect g a) s = exec (.requestFrame g 0x4C#8 [a]) s ∧
    exec (.lineTest g a) s = exec (.requestFrame g 0x4D#8 [a]) s ∧
    exec (.censusStart g) s = exec (.requestFrame g 0x4E#8 []) s ∧
    exec (.unknownRequest g a e) s = exec (.requestFrame g a e) s) ∧
  ∀ (s : State) (tag kind : Byte) (body : List Byte),
    (s.office.rx.state = .brk → Ends (.requestFrame tag kind body) s s) ∧
    (PortBusy s → s.office.inbound.length < 4 → Ends (.requestFrame tag kind body) s { s with office := { s.office with
      rx := s.office.rx.afterValid, inbound := s.office.inbound ++ [⟨tag, requestOf kind body⟩] } }) ∧
    (PortBusy s → 4 ≤ s.office.inbound.length → Ends (.requestFrame tag kind body) s
      { (s.raise .officeOverrun .part tag.toNat) with office := { s.office with rx := s.office.rx.afterValid } }) ∧
    (PortFree s → isRequestKind kind = false →
      Ends (.unknownRequest tag kind body) s (s.answered kind tag [rUnknown]) ∧
      Ends (.requestFrame tag kind body) s (s.answered kind tag [rUnknown])) ∧
    (PortFree s → ∀ n, bodyLengthOf kind = some n → body.length ≠ n →
      Ends (.requestFrame tag kind body) s (s.answered kind tag [rRange])) ∧
    (PortFree s → let r := requestOf kind body
      let hand := { s with office := { s.office with rx := s.office.rx.afterValid, inHand := some ⟨tag, r⟩, inbound := [] } }
      (∀ b, (hand.serve r).2 = some b → Ends (.requestFrame tag kind body) s ((hand.serve r).1.answer b)) ∧
      ((hand.serve r).2 = none → Ends (.requestFrame tag kind body) s (hand.serve r).1))

/-- IDENTIFY is answered DONE in every state with the fields of R163, laid out as 12.6 gives; STATUS READ with the
record named as it stands, or RANGE when there is none (R164); RESET is answered DONE, and nothing is reset yet (R165).
None changes the part; `freeCount` is the model's own (log 7). The octets of each record are spelled out, by R16, R53,
R65, R87, R110, R123, R136, R155, R164 and 12.7; that a value too large for its field is a free value is log 7, and the
octets of a field with no code of its own, of an absent queue entry, activation or energy, and of a bus's enabled flag
are log 9. That the reserve's holdback is read from the live GRID entry at the current window's index, in every state,
is the model's choice (log 34, DESIGN CHOICE). -/
def Obligations.ReadsAndResetAnswer : Prop :=
  (∀ (v : State) (m : Nat),
    let free (k : Nat) : List Byte := be16 (Config.freeWord m k).toNat
    let two (k n : Nat) : List Byte := if n < 65536 then be16 n else free k
    let sgn (k : Nat) (z : Int) : List Byte := if -32768 ≤ z ∧ z ≤ 32767 then be16 (z % 65536).toNat else free k
    let opt (z : Option Int) : List Byte := be16 ((z.getD 0x8000) % 65536).toNat
    let four (z : Option Int) : List Byte := be32 (match z with
      | some x => (x % 4294967296).toNat
      | none => 0xFFFFFFFF)
    let pres (k : Nat) (n : Option Nat) : List Byte := match n with
      | some x => 1#8 :: two k x
      | none => [0#8, 0#8, 0#8]
    let flag (b : Bool) : Byte := if b then 1#8 else 0#8
    let read (r i : Nat) : Option (List Byte) := (v.statusRecord r i).map (recordOctets m)
    (∀ i : StallIx, let x := v.stall i
      read 1 i.val = some ([flag (!x.inService), oct x.occ.code, oct x.fresh.code] ++ two 3 x.age ++
        opt (x.bus.map fun b => (b.val : Int)) ++ pres 5 x.fleetNo ++ [flag x.plugged] ++ sgn 7 x.power ++ two 8 x.fault ++
        four x.baseline ++ sgn 10 x.residue ++ opt (x.partner.map fun j => (j.val : Int)) ++ [flag x.prot] ++
        two 13 x.grant ++ two 14 x.condGrant ++ opt (x.cap.map fun n => (n : Int)) ++ [flag (!x.lend), oct x.controller.code] ++
        two 18 x.sp.charge ++ two 19 x.sp.cond ++ two 20 x.sp.dis ++ two 21 x.lastPosted ++
        (match v.setQ.find? (·.stall == i) with
          | some e => [1#8, flag e.reserve, flag e.inFlight]
          | none => [0#8, 0xFF#8, 0xFF#8]) ++ [oct (ownerCode x.owner)] ++ two 26 x.discharge)) ∧
    (∀ b : BusIx, let x := v.bus b
      read 2 b.val = some (two 0 (v.busEntry b).fleet ++ [(v.busEntry b).enabled] ++ opt (x.energy.map fun n => (n : Int)) ++
        [flag x.carried] ++ opt (x.stall.map fun i => (i.val : Int)) ++ opt ((v.activeOf b).map fun n => (n : Int)) ++
        two 6 x.lendable)) ∧
    (∀ (k : Nat) (d : Departure), v.deps[k]? = some d → read 3 k = some (two 0 d.fleet ++ two 1 d.minute ++ two 2 d.route ++
      two 3 d.lead ++ two 4 d.power ++ [flag d.enabled, oct d.state.code, flag d.short, flag d.atRisk] ++
      (match v.rosterIx d.fleet with
        | some b => opt (some (b.val : Int)) ++ [flag (v.activeOf b == some k)] ++ two 11 (targetFigure v b d) ++
          opt (some (needFigure v b d : Int))
        | none => opt none ++ [0#8] ++ free 11 ++ opt none) ++ opt (v.clock.map fun n => deadlineFigure v d n))) ∧
    (∀ l : StallLine, let x := v.line l
      read 4 (StallLine.index l) = some ([flag (l != v.active), oct x.health.code, oct x.rx.state.code] ++ two 3 x.qual ++
        two 4 x.errors ++ two 5 x.unanswered ++ two 6 v.setQ.length ++ two 7 v.passQ.length)) ∧
    (let y := v.site
     read 4 2 = some ([oct y.rx.state.code] ++ two 1 y.errors ++ [flag (!y.fresh)] ++ opt (y.sample.map (·.importKw)) ++
        four (y.sample.map fun x => (x.freq : Int)) ++ pres 5 (y.sample.map (·.seq)) ++ sgn 6 y.fleetPower ++
        pres 7 y.lastLoad ++ two 8 v.loadInUse ++ [flag y.low] ++ two 10 y.trip ++ two 11 y.restore ++
        two 12 v.importCeiling)) ∧
    (let o := v.office
     read 4 3 = some ([oct o.rx.state.code] ++ two 1 o.errors ++ two 2 o.inbound.length ++ two 3 o.forward.length ++
        [flag o.dropMark] ++ two 5 o.dropCount)) ∧
    (∀ i : Nat, let seen (a : Nat) : Byte := oct ((List.range 8).map fun k =>
        if v.census.unlistedSeen.toList.getD (a + k) false then 2 ^ (7 - k) else 0).sum
      read 5 i = some ([flag v.census.running, oct ((v.census.probe.map fun d => d.val + 1).getD 0),
        flag v.census.outstanding, seen 0, seen 8, seen 16] ++ allDisps.flatMap fun d =>
          let p := v.pres d
          let e := v.eff d
          let r := p.report.getD ⟨0, 0, 0, 0, false⟩
          [oct (p.presence.code * 64 + p.miss * 32 + (if p.report.isSome then 16 else 0) + (if r.discharge then 8 else 0) +
            (if e.discharge then 4 else 0) + (if 256 ≤ r.cabinet then 2 else 0) + (if 256 ≤ e.cabinet then 1 else 0)),
            oct (r.ports * 16 + e.ports), oct r.cabinet, oct r.port0, oct r.port1, oct e.cabinet, oct e.port0, oct e.port1])) ∧
    (∀ i : Nat, let r := v.reserve
      read 6 i = some ([oct r.state.code] ++ opt (r.window.map fun w => (w.val : Int)) ++ two 2 v.curtailable ++
        two 3 v.dischargeable ++
        pres 4 (r.window.map fun w => ((v.winEntry w).power * (v.winEntry w).maxMinutes + 5) / 6) ++
        (match r.act with
          | some a => [1#8, oct a.trigger.code] ++ pres 7 a.requestId ++ two 8 a.target ++ a.window.octets ++
            two 10 a.windowIx.val ++ sgn 11 a.baseline ++ four (some (a.start : Int)) ++ two 13 a.elapsed ++ two 14 a.frozen ++
            two 15 a.curtailed ++ two 16 a.placed ++ two 17 a.shortfall ++
            (match a.delivered with
              | some n => sgn 18 n
              | none => free 18) ++
            [flag a.tripSeen, match a.ended with
              | none => 0xFF#8
              | some .release => 0#8
              | some .limit => 1#8
              | some .windowEnd => 2#8
              | some .restore => 3#8]
          | none => [0#8]) ++
        [oct r.held.length] ++ r.held.flatMap fun e => [oct e.1.val, oct e.2])) ∧
    (∀ i : Nat, let owned (o : Owner) : Nat := (allStalls.filter fun j => (v.stall j).owner == some o).length
      read 7 i = some ([oct v.storage.state.code, flag v.policy.live.params.storageEnable] ++ pres 2 v.storage.target ++
        two 3 v.storage.placed ++ two 4 v.storage.shortfall ++ four (some ((allBuses.map fun b => (v.bus b).lendable).sum : Nat)) ++
        pres 6 v.holdback ++ two 7 (owned .storage) ++ two 8 (owned .reserve))) ∧
    (let header (generation : Nat) (empty pending : Bool) (selected cursor : Nat) : List Byte :=
        two 0 generation ++ [flag empty, flag pending, oct selected] ++ two 4 cursor
     read 8 0 = some (header v.plant.generation v.plant.liveEmpty v.plant.pending v.plant.selected v.plant.cursor ++
        [flag v.lock]) ∧
     read 8 1 = some (header v.fleet.generation v.fleet.liveEmpty v.fleet.pending v.fleet.selected v.fleet.cursor) ∧
     read 8 2 = some (header v.schedule.generation v.schedule.liveEmpty v.schedule.pending v.schedule.selected
        v.schedule.cursor) ∧
     read 8 3 = some (header v.grid.generation v.grid.liveEmpty v.grid.pending v.grid.selected v.grid.cursor) ∧
     read 8 4 = some (header v.policy.generation v.policy.liveEmpty v.policy.pending v.policy.selected v.policy.cursor)) ∧
    (∀ i : Nat, let r := v.alloc.record
      read 9 i = some (two 0 v.alloc.roundCount ++ opt (r.minute.map fun n => (n : Int)) ++ two 2 r.feeder ++ two 3 r.ceiling ++
        two 4 r.load ++ two 5 r.cond ++ two 6 r.hard ++ two 7 r.soft ++ two 8 r.softPlain ++ [oct r.modif.code] ++
        two 10 r.ramp ++ two 11 r.chargeSum ++ two 12 r.handedOut ++
        (match r.unused with
          | some n => two 13 n
          | none => free 13) ++ two 14 v.pathSecond ++
        [flag v.configured, flag v.superv.supervised, flag v.superv.expectB] ++
        opt (if v.superv.supervised then some (v.superv.timer : Int) else none) ++
        four (v.clock.map fun n => (n : Int))))) ∧
  ([RxState.hunt, .sync1Seen, .frame, .brk].map RxState.code = [0, 1, 2, 3] ∧
    [Health.good, .failed, .test].map Health.code = [0, 1, 2] ∧
    [Presence.unlisted, .unprobed, .present, .absent].map Presence.code = [0, 1, 2, 3] ∧
    [Occupancy.vacant, .unidentified, .session, .guest, .conflict, .faulted].map Occupancy.code = [0, 1, 2, 3, 4, 5] ∧
    [Freshness.none, .fresh, .stale, .unreachable].map Freshness.code = [0, 1, 2, 3] ∧
    [Controller.allocator, .reserve, .storage].map Controller.code = [0, 1, 2] ∧
    [none, some Owner.reserve, some .storage].map ownerCode = [0, 1, 2] ∧
    [Readiness.disabled, .scheduled, .charging, .ready, .conditioning, .departed, .departedShort, .notDeparted, .absent,
      .cancelled].map Readiness.code = [0, 1, 2, 3, 4, 5, 6, 7, 8, 9] ∧
    [ReserveMod.none, .active, .recovery].map ReserveMod.code = [0, 1, 2] ∧
    [StorageState.idle, .shaving, .inhibited].map StorageState.code = [0, 1, 2] ∧
    [ReserveState.disarmed, .armed, .armedShort, .active, .recovery].map ReserveState.code = [0, 1, 2, 3, 4] ∧
    [Trigger.dispatch, .frequency].map Trigger.code = [0, 1] ∧
    [ResetCause.power, .hardware, .hardwareService, .soft].map ResetCause.code = [0, 1, 2, 3]) ∧
  ∀ (s : State) (tag record index : Byte), PortFree s →
    let v := { s with office := { s.office with rx := s.office.rx.afterValid } }
    let found := v.statusRecord record.toNat index.toNat
    Ends (.identify tag) s (s.answered 0x40#8 tag (
      [0x00#8, 0x5A#8, 0x4B#8, 0x0D#8, 0x48#8, 0x41#8,
        if s.configured then 1#8 else 0#8, if s.superv.supervised then 1#8 else 0#8, oct s.resetCause.code,
        if s.lock then 1#8 else 0#8] ++ be16 s.plant.generation ++ be16 s.fleet.generation ++
        be16 s.schedule.generation ++ be16 s.grid.generation ++ be16 s.policy.generation ++
        be32 (match s.clock with
          | some n => n
          | none => 0xFFFFFFFF))) ∧
    Ends (.statusRead tag record index) s { s.answered 0x41#8 tag (
      match found with
      | some fs => 0x00#8 :: recordOctets s.freeCount fs
      | none => [0x06#8]) with freeCount := s.freeCount + 1 } ∧
    (record.toNat = 0 ∨ 9 < record.toNat → found = none) ∧
    (record.toNat = 1 → (found = none ↔ 47 < index.toNat)) ∧
    (record.toNat = 2 → (found = none ↔ 63 < index.toNat)) ∧
    (record.toNat = 3 → (found = none ↔ s.deps.length ≤ index.toNat)) ∧
    (record.toNat = 4 → (found = none ↔ 3 < index.toNat)) ∧
    (record.toNat = 8 → (found = none ↔ 4 < index.toNat)) ∧
    Ends (.reset tag) s (s.answered 0x42#8 tag [0x00#8])

/-- A HEARTBEAT while UNCONFIGURED is refused NOT_READY (R162); while AUTONOMOUS it is judged against the expected key,
and the second right one in turn gains supervision (R166). Each answer but the refusal carries the supervision state.
While SUPERVISED a right HEARTBEAT moves the alternation and restarts the timer (R167). A wrong one, and the timer's
expiry, make the part AUTONOMOUS and raise SUPERVISOR_LOST, with parameter 1 and 2; then each stall in ascending number
loses its cap and any FORBID, the bus of one that was in SESSION with FORBID is re-evaluated, and the stall's setpoint
is composed and, where it changes, posted unmarked (R167, R122). Nothing outside the depot's records moves with that.
-/
def Obligations.SupervisionIsGainedHeldAndLost : Prop :=
  (∀ (s : State) (tag : Byte) (token : BitVec 16), PortFree s →
    let key := if s.superv.expectB then s.plant.live.site.keyB else s.plant.live.site.keyA
    (s.configured = false → Ends (.heartbeat tag token) s (s.answered 0x43#8 tag [rNotReady])) ∧
    (s.configured = true → s.superv.supervised = false →
      (token.toNat = key → s.superv.correct = 0 → Ends (.heartbeat tag token) s
        (({ s with superv := { s.superv with expectB := !s.superv.expectB, correct := 1 } }).answered 0x43#8 tag
          [rDone, 0#8])) ∧
      (token.toNat = key → s.superv.correct = 1 → Ends (.heartbeat tag token) s
        ((({ s with superv := ⟨true, !s.superv.expectB, 0, s.policy.live.params.heartbeatPeriod⟩ }).raise
          .supervisorRestored .part 0).answered 0x43#8 tag [rDone, 1#8])) ∧
      (token.toNat ≠ key → Ends (.heartbeat tag token) s
        (({ s with superv := { s.superv with expectB := false, correct := 0 } }).answered 0x43#8 tag
          [rInvalid, 0#8])))) ∧
  ∀ (s : State) (tag : Byte) (token : BitVec 16), s.superv.supervised = true →
    let key := if s.superv.expectB then s.plant.live.site.keyB else s.plant.live.site.keyA
    let lost (v : State) (cause : Int) := ({ v with superv := ⟨false, false, 0, 0⟩ }).raise .supervisorLost .part cause
    let gone (v : State) (cause : Int) := allStalls.foldl State.loseCap (lost v cause)
    let hand := { s with office := { s.office with
      rx := s.office.rx.afterValid, inHand := some ⟨tag, .heartbeat token⟩, inbound := [] } }
    (PortFree s → s.configured = true → token.toNat = key → Ends (.heartbeat tag token) s
      (({ s with superv := { s.superv with
        expectB := !s.superv.expectB, timer := s.policy.live.params.heartbeatPeriod } }).answered 0x43#8 tag
          [rDone, 1#8])) ∧
    (PortFree s → s.configured = true → token.toNat ≠ key →
      Ends (.heartbeat tag token) s ({ gone hand 1 with office := s.office }.answered 0x43#8 tag [rInvalid, 0#8])) ∧
    Ends .heartbeatTimerExpiry s (gone s 2) ∧
    (∀ (v : State) (i : StallIx), let put := v.setStall i { v.stall i with cap := none, lend := true }
      let lent (w : State) : Prop := let x := w.stall i
        v.loseCap i = if x.composed = x.sp then w else { w.setStall i { x with
          sp := x.composed, lastPosted := w.pathSecond } with setQ := postEntry w.setQ i false }
      (∀ b, (v.stall i).lend = false → (v.stall i).occ = .session → (v.stall i).bus = some b → lent (put.reeval b)) ∧
      ((v.stall i).lend = true ∨ (v.stall i).occ ≠ .session ∨ (v.stall i).bus = none → lent put)) ∧
    ∀ v cause, KeepsOutside (lost v cause) (gone v cause) ∧
      ∀ i, ((gone v cause).stall i).cap = none ∧ ((gone v cause).stall i).lend = true ∧
        SameSession (v.stall i) ((gone v cause).stall i)

/-! ## The Table Store (10.4) -/

/-- The five table requests act on the one set they name, by its number, and change nothing else; an unknown set is
refused RANGE (R168, R171, R172). What a set does with each is stated next. What an entry of each table stores: a value
outside its range refuses the write in PLANT, FLEET, SCHEDULE and GRID (R1, R169), an unused BUS or DEPARTURE entry is
stored as written, and in POLICY each value is brought to the nearer end of its range, a flag to on and a class to
URGENT (R170). An entry stored as written reads as written. -/
def Obligations.TableRequestsActOnTheSetNamed : Prop :=
  (∀ (s : State) (g table index copy : Byte) (e : List Byte) (w : BitVec 32), PortFree s →
    TableRequests s 0#8 s.plant plantKind s.lock s.plant.draft.offender (fun t => { s with plant := t }) ∧
    TableRequests s 1#8 s.fleet fleetKind false (fleetOffender s.fleet.draft) (fun t => { s with fleet := t }) ∧
    TableRequests s 2#8 s.schedule scheduleKind false (scheduleOffender s.schedule.draft s.fleet.live)
      (fun t => { s with schedule := t }) ∧
    TableRequests s 3#8 s.grid gridKind false s.grid.draft.offender (fun t => { s with grid := t }) ∧
    TableRequests s 4#8 s.policy policyKind false none (fun t => { s with policy := t }) ∧
    ∀ set : Byte, 4 < set.toNat →
      Ends (.tableSelect g set table) s (s.answered 0x44#8 g [rRange]) ∧
      Ends (.tableWrite g set table index e) s (s.answered 0x45#8 g [rRange]) ∧
      Ends (.tableRead g set copy table index) s (s.answered 0x46#8 g [rRange]) ∧
      Ends (.discard g set) s (s.answered 0x47#8 g [rRange]) ∧
      Ends (.commit g set w) s (s.answered 0x48#8 g [rRange])) ∧
  (∀ (p : PlantSet) (v : Vector BusEntry 64) (q : Vector DepEntry 96) (t x : Nat) (a b c d e f g h i j : Byte),
    let n (a b : Byte) : Nat := a.toNat * 256 + b.toNat
    plantKind.store p 0 x [a, b, c, d, e, f] = (if n a b ≤ 6000 then
      some ({ p with site := ⟨n a b, n c d, n e f⟩ }, false) else none) ∧
    plantKind.store p 1 x [a, b, c] = (if a.toNat ≤ 1 ∧ n b c ≤ 2000 then
      some ({ p with panels := p.panels.setIfInBounds x ⟨a == 1#8, n b c⟩ }, false) else none) ∧
    plantKind.store p 2 x [a, b, c, d, e, f, g, h] = (if a.toNat ≤ 1 ∧ (b.toNat < 6 ∨ b = 0xFF#8) ∧ 1 ≤ c.toNat ∧
        c.toNat ≤ 2 ∧ n d e ≤ 400 ∧ f.toNat ≤ 250 ∧ g.toNat ≤ 250 ∧ h.toNat ≤ 1 then
      some ({ p with dispensers := p.dispensers.setIfInBounds x ⟨a == 1#8,
        if r : b.toNat < 6 then some ⟨b.toNat, r⟩ else none, c.toNat, n d e, f.toNat, g.toNat, h == 1#8⟩ }, false)
      else none) ∧
    fleetKind.store v t x [a, b, c, d, e, f, g, h, i, j] = (if n a b = 0 ∨ (100 ≤ n c d ∧ n c d ≤ 6000 ∧ n e f ≤ 500 ∧
        1 ≤ g.toNat ∧ g.toNat ≤ 250 ∧ h.toNat ≤ 250 ∧ i.toNat ≤ 1 ∧ j.toNat ≤ 1) then
      some (v.setIfInBounds x ⟨n a b, n c d, n e f, g.toNat, h.toNat, i, j⟩, false) else none) ∧
    scheduleKind.store q t x [a, b, c, d, e, f, g, h, i] = (if n a b = 0 ∨ (n c d ≤ 1439 ∧ n e f ≤ 6000 ∧
        g.toNat ≤ 60 ∧ h.toNat ≤ 50 ∧ i.toNat ≤ 1) then
      some (q.setIfInBounds x ⟨n a b, n c d, n e f, g.toNat, h.toNat, i⟩, false) else none)) ∧
  (∀ (p : GridSet) (x : Nat) (a b c d e f g h i j : Byte), let n (a b : Byte) : Nat := a.toNat * 256 + b.toNat
    gridKind.store p 0 x [a, b, c, d, e, f, g, h, i] = (if a.toNat ≤ 1 ∧ n b c ≤ 1439 ∧ n d e ≤ 1439 ∧ n f g ≤ 2000 ∧
        h.toNat ≤ 120 ∧ i.toNat ≤ 1 ∧ (a = 1#8 → 1 ≤ n f g ∧ 1 ≤ h.toNat) then
      some ({ p with windows := p.windows.setIfInBounds x ⟨a == 1#8, n b c, n d e, n f g, h.toNat, i == 1#8⟩ }, false)
      else none) ∧
    gridKind.store p 1 x [a, b, c, d, e, f, g, h, i, j] = (
      let trip := n a b * 65536 + n c d
      let restore := n e f * 65536 + n g h
      if 40000 ≤ trip ∧ trip ≤ 70000 ∧ 40000 ≤ restore ∧ restore ≤ 70000 ∧ 1 ≤ i.toNat ∧ i.toNat ≤ 15 ∧ 1 ≤ j.toNat ∧
          j.toNat ≤ 15 then
        some ({ p with freq := ⟨trip, restore, i.toNat, j.toNat⟩ }, false) else none) ∧
    gridKind.store p 2 x [a, b] = (if n a b ≤ 6000 then
      some ({ p with ceilings := p.ceilings.setIfInBounds x (n a b) }, false) else none)) ∧
  (∀ (p : PolicySet) (x : Nat) (a b c d e f g h i j k l m o q r t u v w y : Byte),
    let n (a b : Byte) : Nat := a.toNat * 256 + b.toNat
    let near (lo hi n : Nat) : Nat := if n < lo then lo else if hi < n then hi else n
    let stored : Params := {
      period := near 1 10 a.toNat, urgentHorizon := near 15 240 (n b c), protectHorizon := near 30 480 (n d e)
      chargeTo := near 500 1000 (n f g), guestCeiling := near 0 50 h.toNat, releaseWindow := near 5 120 i.toNat
      rampStep := near 10 1000 (n j k), storageEnable := l != 0#8, shaveThreshold := near 5 200 m.toNat
      heartbeatPeriod := near 5 120 o.toNat, batchThreshold := near 1 16 q.toNat, holdTime := near 1 60 r.toNat
      dayRoll := near 0 1439 (n t u), fallbackLoad := near 0 6000 (n v w), autoSwitch := y != 0#8 }
    let os := [a, b, c, d, e, f, g, h, i, j, k, l, m, o, q, r, t, u, v, w, y]
    policyKind.store p 0 x os = some ({ p with params := stored }, decide (stored.octets ≠ os)) ∧
    policyKind.store p 1 x [a] = some ({ p with classes := p.classes.setIfInBounds x (if a = 0#8 then .routine else .urgent) },
      decide (1 < a.toNat))) ∧
  let readsBack (α : Type) (k : SetKind α) : Prop := ∀ (d x : α) (tb ix count : Nat) (e : List Byte),
    tableShape k.number tb = some (count, e.length) → ix < count → k.store d tb ix e = some (x, false) →
    k.entry x tb ix = e
  readsBack PlantSet plantKind ∧ readsBack (Vector BusEntry 64) fleetKind ∧ readsBack (Vector DepEntry 96) scheduleKind ∧
    readsBack GridSet gridKind ∧ readsBack PolicySet policyKind

/-- The five sets' numbers, and each table's entry count and entry length (12.8); an entry fits a known table when its
length is that table's; the commit CRC-32 is the register of the reflected polynomial, first all ones, that takes each
octet's bits from the lowest up, inverted at the end (R183). What one set does with a request, by its draft state, lock
and table (R168, R171, R172): a refused request changes nothing; a stored write changes only the draft, and the cursor
after NEXT, which wraps past the last entry; a commit that passes every check, in the order of R172, moves only the
draft state. A read is RANGE for an unknown table, an index outside it or a copy that is neither 0, live, nor 1, draft,
and otherwise gives the generation, the draft state and the entry (R171). A write of the wrong length is RANGE (R159,
12.6), and is so also while PENDING or locked, which is the model's reading (log 26, DEDUCED). -/
def Obligations.DraftRequests : Prop :=
  ∀ (α : Type) (t : TableSet α) (k : SetKind α) (locked : Bool) (table index copy : Byte) (e : List Byte) (w : BitVec 32)
    (off : Option (Nat × Nat)),
    let shapes : List (Nat × Nat × Nat × Nat) := [(0, 0, 1, 6), (0, 1, 6, 3), (0, 2, 24, 8), (1, 0, 64, 10), (2, 0, 96, 9),
      (3, 0, 16, 9), (3, 1, 1, 10), (3, 2, 48, 2), (4, 0, 1, 21), (4, 1, 64, 1)]
    (∀ set tab count n, tableShape set tab = some (count, n) ↔ (set, tab, count, n) ∈ shapes) ∧
    (∀ set tab, entryFits set tab e = true ↔ ∀ count n, (set, tab, count, n) ∈ shapes → e.length = n) ∧
    (plantKind.number = 0 ∧ fleetKind.number = 1 ∧ scheduleKind.number = 2 ∧ gridKind.number = 3 ∧ policyKind.number = 4) ∧
    (crc32 [] = 0x00000000#32 ∧
      (∀ os o, ~~~ crc32 (os ++ [o]) = (List.range 8).foldl (fun (c : BitVec 32) j =>
        (c >>> 1) ^^^ (if c.getLsbD 0 = o.getLsbD j then 0x00000000#32 else 0xEDB88320#32)) (~~~ crc32 os)) ∧
      crc32 [0x31#8, 0x32#8, 0x33#8, 0x34#8, 0x35#8, 0x36#8, 0x37#8, 0x38#8, 0x39#8] = 0xCBF43926#32) ∧
    let known := tableShape k.number table.toNat ≠ none
    let tb := if index = 0xFF#8 then t.selected else table.toNat
    let ix := if index = 0xFF#8 then t.cursor else index.toNat
    let write := t.write k locked table index e
    let commit := t.commit k locked w off
    (¬ known → t.select k table = (t, [rRange])) ∧
    (known → t.pending = true → t.select k table = (t, [rBusy])) ∧
    (known → t.pending = false → t.select k table = ({ t with selected := table.toNat, cursor := 0 }, [rDone])) ∧
    (¬ known → t.read k copy table index = [rRange]) ∧
    (∀ count n, tableShape k.number table.toNat = some (count, n) →
      (count ≤ index.toNat ∨ 1 < copy.toNat → t.read k copy table index = [rRange]) ∧
      (index.toNat < count → (copy = 0#8 ∨ copy = 1#8) → t.read k copy table index =
        rDone :: be16 t.generation ++ [if t.pending then 1#8 else 0#8] ++
          k.entry (if copy = 0#8 then t.live else t.draft) table.toNat index.toNat)) ∧
    (t.pending = true → t.discard = (t, [rBusy])) ∧
    (t.pending = false → t.discard = ({ t with draft := t.live, selected := 0, cursor := 0 }, [rDone])) ∧
    (entryFits k.number tb e = false → write = (t, [rRange])) ∧
    (t.pending = true → entryFits k.number tb e = true → write = (t, [rBusy])) ∧
    (t.pending = false → locked = true → entryFits k.number tb e = true → write = (t, [rLocked])) ∧
    (t.pending = false → locked = false → tableShape k.number tb = none → write = (t, [rRange])) ∧
    (t.pending = false → locked = false → ∀ count, tableShape k.number tb = some (count, e.length) →
      (count ≤ ix → write = (t, [rRange])) ∧
      (ix < count → k.store t.draft tb ix e = none → write = (t, [rRange])) ∧
      ∀ d c, ix < count → k.store t.draft tb ix e = some (d, c) →
        let cur := if index = 0xFF#8 then (if t.cursor + 1 < count then t.cursor + 1 else 0) else t.cursor
        write = ({ t with draft := d, cursor := cur },
          [if c then rClamped else rDone, oct tb, oct ix, oct cur] ++ k.entry d tb ix)) ∧
    (t.pending = true → commit = (t, [rBusy])) ∧
    (t.pending = false → locked = true → commit = (t, [rLocked])) ∧
    (t.pending = false → locked = false → crc32 (k.octets t.draft) ≠ w → commit = (t, [rChecksum])) ∧
    (t.pending = false → locked = false → crc32 (k.octets t.draft) = w →
      (∀ a b, off = some (a, b) → commit = (t, [rInvalid, oct a, oct b])) ∧
      (off = none → commit = ({ t with pending := true }, [rDone])))

/-- The consistency checks of a commit and their first offender (R2, R172). PLANT: both keys non-zero and different,
and every listed dispenser on a panel. FLEET: the used fleet numbers all different. SCHEDULE: an enabled used entry
names a used number of the live FLEET set, and no two used entries share number and minute. GRID: the FREQUENCY entry
in range, and no two enabled windows share a minute. The lowest entry is named, and the later of two that clash (log
25); of the two GRID checks FREQUENCY is named first, the model's choice (log 25). -/
def Obligations.PlantConsistency : Prop :=
  (∀ p : PlantSet,
    (p.offender = none ↔ p.site.keyA ≠ 0 ∧ p.site.keyB ≠ 0 ∧ p.site.keyB ≠ p.site.keyA ∧
      ∀ d : DispIx, p.dispensers[d.val].listed = true → p.dispensers[d.val].panel ≠ none) ∧
    (p.site.keyA = 0 ∨ p.site.keyB = 0 ∨ p.site.keyB = p.site.keyA → p.offender = some (0, 0)) ∧
    let loose (d : DispIx) : Prop := p.dispensers[d.val].listed = true ∧ p.dispensers[d.val].panel = none
    (p.site.keyA ≠ 0 → p.site.keyB ≠ 0 → p.site.keyB ≠ p.site.keyA → ∀ t n, p.offender = some (t, n) ↔
      t = 2 ∧ ∃ d : DispIx, d.val = n ∧ loose d ∧ ∀ c : DispIx, c < d → ¬ loose c)) ∧
  (∀ v : Vector BusEntry 64,
    let twice (b : BusIx) : Prop := v[b.val].fleet ≠ 0 ∧ ∃ c : BusIx, c < b ∧ v[c.val].fleet = v[b.val].fleet
    (fleetOffender v = none ↔ ∀ b, ¬ twice b) ∧
    ∀ t n, fleetOffender v = some (t, n) ↔ t = 0 ∧ ∃ b : BusIx, b.val = n ∧ twice b ∧ ∀ c, c < b → ¬ twice c) ∧
  (∀ (v : Vector DepEntry 96) (live : Vector BusEntry 64),
    let bad (k : Fin 96) : Prop := v[k.val].fleet ≠ 0 ∧
      ((v[k.val].enabled ≠ 0#8 ∧ ∀ b : BusIx, live[b.val].fleet ≠ v[k.val].fleet) ∨
        ∃ j : Fin 96, j < k ∧ v[j.val].fleet = v[k.val].fleet ∧ v[j.val].minute = v[k.val].minute)
    (scheduleOffender v live = none ↔ ∀ k, ¬ bad k) ∧
    ∀ t n, scheduleOffender v live = some (t, n) ↔ t = 0 ∧ ∃ k : Fin 96, k.val = n ∧ bad k ∧ ∀ j, j < k → ¬ bad j) ∧
  ∀ g : GridSet, let f := g.freq
    let ok : Prop := 40000 ≤ f.trip ∧ f.trip ≤ 70000 ∧ 40000 ≤ f.restore ∧ f.restore ≤ 70000 ∧
      1 ≤ f.tripCount ∧ f.tripCount ≤ 15 ∧ 1 ≤ f.restoreCount ∧ f.restoreCount ≤ 15
    let clash (i : WinIx) : Prop := g.windows[i.val].enabled = true ∧
      ∃ j : WinIx, j < i ∧ g.windows[j.val].enabled = true ∧ g.windows[j.val].meets g.windows[i.val] = true
    (g.offender = none ↔ ok ∧ ∀ i, ¬ clash i) ∧ (¬ ok → g.offender = some (1, 0)) ∧
    (ok → ∀ t n, g.offender = some (t, n) ↔ t = 0 ∧ ∃ i : WinIx, i.val = n ∧ clash i ∧ ∀ j, j < i → ¬ clash j)

/-- The minutes a window contains, by the table of R138; two windows share a minute just when the commit check says
they meet, so at most one enabled window of a GRID set that passes it contains a minute (R138, R172); the window in
force is an enabled one of the live set that contains the current minute, and there is one whenever any does. The
arming evaluation by that window (R139), with the pool, the holdback and the capacities of R140 (a stall lends its
discharge capacity, R128, where its bus has lendable energy): nothing when neither state nor window changes, and
otherwise the new state and window, their event, and the hand-off to the Discharge Coordinator. A GRID swap makes it
unless the reserve is ACTIVE or in RECOVERY (R154). The time handed over makes it likewise while DISARMED, ARMED or
ARMED_SHORT; while ACTIVE it ends the activation with cause WINDOW_END where the minute lies outside the copied window,
and nothing else comes of it (R151). -/
def Obligations.WindowsContainMinutes : Prop :=
  (∀ (w : WindowEntry) (m : Nat),
    (w.start < w.stop → (w.contains m = true ↔ w.start ≤ m ∧ m < w.stop)) ∧
    (w.stop < w.start → (w.contains m = true ↔ w.start ≤ m ∨ m < w.stop)) ∧
    (w.start = w.stop → w.contains m = false)) ∧
  (∀ v w : WindowEntry, v.start < 1440 → v.stop < 1440 → w.start < 1440 → w.stop < 1440 →
    (v.meets w = true ↔ ∃ m, m < 1440 ∧ v.contains m = true ∧ w.contains m = true)) ∧
  (∀ g : GridSet, (∀ i : WinIx, g.windows[i.val].start < 1440 ∧ g.windows[i.val].stop < 1440) → g.offender = none →
    ∀ (i j : WinIx) (m : Nat), m < 1440 → g.windows[i.val].enabled = true → g.windows[j.val].enabled = true →
      g.windows[i.val].contains m = true → g.windows[j.val].contains m = true → i = j) ∧
  (∀ s : State, (s.clock = none ∨ s.grid.liveEmpty = true → s.windowInForce = none) ∧
    (∀ n i, s.clock = some n → s.windowInForce = some i → s.grid.liveEmpty = false ∧
      (s.winEntry i).enabled = true ∧ (s.winEntry i).contains (n / 60) = true) ∧
    ∀ n i, s.clock = some n → s.grid.liveEmpty = false → (s.winEntry i).enabled = true →
      (s.winEntry i).contains (n / 60) = true → ∃ j, s.windowInForce = some j ∧ j ≤ i) ∧
  ∀ s : State, let w := s.windowInForce
    let pool := (allBuses.map fun b => (s.bus b).lendable).sum
    let lends (i : StallIx) : Nat := match (s.stall i).bus with
      | some b => if 0 < (s.bus b).lendable then min (s.busEntry b).discharge (s.effPort i) else 0
      | none => 0
    let able := (s.sumStalls fun x => if x.occ.isPlugged && !x.prot then x.sp.charge else 0) +
      (allDisps.map fun d => min (s.eff d).cabinet (lends (stallAt d 0) + lends (stallAt d 1))).sum
    let old := s.reserve.state
    (w = none → (old = .disarmed ∧ s.reserve.window = none → s.armingEval = s) ∧
      let u := { s with reserve := { s.reserve with state := .disarmed, window := none } }
      (old = .armed ∨ old = .armedShort → s.armingEval = ((u.raise .reserveDisarmed
        (.reserve ((s.reserve.window.map (·.val)).getD 0)) 0).examineStorage).testHoldback) ∧
      (old = .recovery → s.armingEval = u.examineStorage.testHoldback)) ∧
    (∀ i, w = some i → let e := s.winEntry i
      let short := pool < (e.power * e.maxMinutes + 5) / 6 ∨ able < e.power
      (short → (old = .armedShort ∧ s.reserve.window = w → s.armingEval = s) ∧
        let u := { s with reserve := { s.reserve with state := .armedShort, window := w } }
        (old ≠ .armedShort ∨ s.reserve.window ≠ w → s.armingEval =
          ((u.raise .reserveShort (.reserve i.val) ((e.power - able : Nat) : Int)).examineStorage).testHoldback)) ∧
      (¬ short → (old = .armed ∧ s.reserve.window = w → s.armingEval = s) ∧
        let u := { s with reserve := { s.reserve with state := .armed, window := w } }
        (old ≠ .armed ∨ s.reserve.window ≠ w → s.armingEval =
          ((u.raise .reserveArmed (.reserve i.val) e.power).examineStorage).testHoldback))) ∧
    (old = .active ∨ old = .recovery → s.gridSwapped = s) ∧
    (old = .disarmed ∨ old = .armed ∨ old = .armedShort → s.gridSwapped = s.armingEval ∧ s.reserveTime = s.armingEval) ∧
    (old = .recovery → s.reserveTime = s) ∧
    (old = .active → ∀ a n, s.reserve.act = some a → s.clock = some n →
      (a.window.contains (n / 60) = true → s.reserveTime = s) ∧
      (a.window.contains (n / 60) = false → s.reserveTime = s.endActivation .windowEnd))

/-- LOCK: NOT_READY while UNCONFIGURED, BUSY while the PLANT draft is PENDING, and otherwise DONE with the lock set,
as the table of R13 gives. -/
def Obligations.LockRequest : Prop :=
  ∀ (s : State) (tag : Byte), PortFree s →
    (s.configured = false → Ends (.lock tag) s (s.answered 0x49#8 tag [rNotReady])) ∧
    (s.configured = true → s.plant.pending = true → Ends (.lock tag) s (s.answered 0x49#8 tag [rBusy])) ∧
    (s.configured = true → s.plant.pending = false →
      Ends (.lock tag) s ({ s with lock := true }.answered 0x49#8 tag [rDone]))

/-! ## The clock and departures (05) -/

/-- SET TIME: RANGE above 86399 with nothing moved; otherwise DONE with the clock set and nothing outside the depot's
records moved (R68). A first setting reaches every departure of the service day up to the new minute; a forward move
those after the old minute up to the new one, and across the day roll, which it takes, those of the new day up to the
new minute (R69, R72, R80); a backward move reaches none and ends none (R70). A forward move crosses the day roll where
the service-day second, counted from the day-roll minute, falls (R69). After each, every open record stands evaluated
(R75 to R77), and the AT_RISK and protected flags are what R81 and R82 give. The whole work, in its order: the records
reached, each as MinuteTickReachesDepartures says, and what follows and is handed on to the lending rules and the
Reserve Controller (R83, R126, R139, R151). The order in which records are reached, evaluated and recomputed, and buses
re-evaluated, is the model's choice (log 11). -/
def Obligations.SetTimeSetsClock : Prop :=
  (∀ (s : State) (t : Nat), s.sdSecond t = (t + 86400 - 60 * s.policy.live.params.dayRoll) % 86400 ∧
    s.sdMinute t = (t + 1440 - s.policy.live.params.dayRoll) % 1440) ∧
  ∀ (s : State) (tag : Byte) (n : BitVec 32), PortFree s →
    (86399 < n.toNat → Ends (.setTime tag n) s (s.answered 0x4A#8 tag [rRange])) ∧
    (n.toNat ≤ 86399 → ∃ u, Ends (.setTime tag n) s (u.answered 0x4A#8 tag [rDone]) ∧
      KeepsOutside { s with clock := some n.toNat } u ∧
      let z := s.sdMinute (n.toNat / 60)
      (s.clock = none → Reached s false (fun k => k ≤ z) u) ∧
      ∀ o, s.clock = some o →
        ((n.toNat + 86400 - o) % 86400 < 43200 → s.sdSecond o ≤ s.sdSecond n.toNat →
          Reached s false (fun k => s.sdMinute (o / 60) < k ∧ k ≤ z) u) ∧
        ((n.toNat + 86400 - o) % 86400 < 43200 → s.sdSecond n.toNat < s.sdSecond o →
          Reached s true (fun k => k ≤ z) u) ∧
        (43200 ≤ (n.toNat + 86400 - o) % 86400 → Settles u ∧ u.deps.length = s.deps.length ∧
          ∀ (k : Nat) (d : Departure), s.deps[k]? = some d → ∃ e : Departure, u.deps[k]? = some e ∧ EvaluatedFrom d e)) ∧
    (n.toNat ≤ 86399 → let z := s.sdMinute (n.toNat / 60)
      let v : State := { s with
        clock := some n.toNat
        office := { s.office with rx := s.office.rx.afterValid, inHand := some ⟨tag, .setTime n⟩ } }
      let done (u : State) : Prop := Ends (.setTime tag n) s (u.answer [rDone])
      (s.clock = none → done (timeFollows (recordsReached v fun k => k ≤ z))) ∧
      ∀ o, s.clock = some o → let a := s.sdMinute (o / 60)
        ((n.toNat + 86400 - o) % 86400 < 43200 → s.sdSecond o ≤ s.sdSecond n.toNat →
          done (timeFollows (recordsReached v fun k => a < k && k ≤ z))) ∧
        ((n.toNat + 86400 - o) % 86400 < 43200 → s.sdSecond n.toNat < s.sdSecond o →
          done (timeFollows (recordsReached (dayRolled (recordsReached v fun k => a < k)) fun k => k ≤ z))) ∧
        (43200 ≤ (n.toNat + 86400 - o) % 86400 → done (timeFollows v)))

/-- A minute tick brings the clock to the next minute and ends every open record of that minute: NOT_DEPARTED, with its
event and the stall, when it is the active departure of a bus in SESSION, CANCELLED when its bus is not in the roster,
ABSENT, with its event, otherwise; at the day-roll minute the day roll comes first (R71, R72, R80). The records are
then evaluated, their flags recomputed, the buses re-evaluated, changes of protection handed on, and the time given to
the Reserve Controller (R76, R81 to R83, R126, R139, R151). While the clock is UNSET there is no tick (R67). The order
of the list (R73). A FLEET swap cancels the open records of buses that have left the roster (R85); a SCHEDULE swap
raises DEPARTURE_REMOVED for the active departure of a bus in SESSION that vanishes, in old list order (log 11), and
makes the list of the new set's records by R84; either list is re-ordered and evaluated, and its changes handed on; and
a POLICY swap that moves the day-roll minute re-orders and evaluates it (R86). What a POLICY swap hands on, in the
order of the table of R173, the model's choice (log 11): the protected flags recomputed, every bus re-evaluated,
storage examined, the roles swapped where R32 has them, and the routine hold released where the waiting records reach
the batch threshold (R83, R126, R132, R32, R178). After each of these every open record stands as R75 to R77 give, and
the protected flags as R82 gives; after a tick the AT_RISK flags too (R81). -/
def Obligations.MinuteTickReachesDepartures : Prop :=
  (∀ s : State,
    (s.clock = none → Ends .minuteTick s s) ∧
    ∀ o, s.clock = some o → s.policy.live.params.dayRoll < 1440 → let z := s.sdMinute ((o / 60 + 1) % 1440)
      let now : State := { s with clock := some (60 * ((o / 60 + 1) % 1440)) }
      Ends .minuteTick s (timeFollows (recordsReached (if z = 0 then dayRolled now else now) fun k => k == z)) ∧
      ∃ v, Ends .minuteTick s v.reserveTime ∧ KeepsOutside now v ∧
        v.reserve.state = s.reserve.state ∧ v.reserveTime.deps = v.deps ∧ Reached s (z = 0) (fun k => k = z) v) ∧
  (∀ (s : State) (k : Nat) (d : Departure), s.deps[k]? = some d →
    let ends (st : Readiness) : State := { s with deps := s.deps.set k { d with state := st, short := false, atRisk := false } }
    (d.state.isOpen = false → s.reachDep k = s) ∧
    (d.state.isOpen = true → s.rosterIx d.fleet = none → s.reachDep k = ends .cancelled) ∧
    (∀ b, d.state.isOpen = true → s.rosterIx d.fleet = some b →
      (∀ i, ActiveAt s b k d → (s.bus b).stall = some i →
        s.reachDep k = (ends .notDeparted).raise .notDeparted (.departure k) i.val) ∧
      (¬ ActiveAt s b k d ∨ (s.bus b).stall = none → s.reachDep k = (ends .absent).raise .absent (.departure k) 0)) ∧
    let kept := ∃ e : DepEntry, e ∈ s.schedule.live.toList ∧ e.fleet ≠ 0 ∧ e.fleet = d.fleet ∧ e.minute = d.minute
    (kept → s.removeDep k = s) ∧
    (¬ kept → (∀ b i, s.rosterIx d.fleet = some b → ActiveAt s b k d → (s.bus b).stall = some i →
        s.removeDep k = s.raise .departureRemoved (.stall i) b.val) ∧
      ((∀ b, s.rosterIx d.fleet = some b → ¬ ActiveAt s b k d ∨ (s.bus b).stall = none) → s.removeDep k = s))) ∧
  (∀ s : State, ∃ l : List Departure, l.Perm s.deps ∧ l.Pairwise (fun a b => s.depKey a ≤ s.depKey b) ∧
    s.sortDeps = { s with deps := l }) ∧
  (∀ (s : State) (a b : Departure), a.fleet < 65536 → b.fleet < 65536 → (s.depKey a ≤ s.depKey b ↔
    s.sdMinute a.minute < s.sdMinute b.minute ∨ (s.sdMinute a.minute = s.sdMinute b.minute ∧
      ((∃ i j, s.rosterIx a.fleet = some i ∧ s.rosterIx b.fleet = some j ∧ i ≤ j) ∨
        (s.rosterIx a.fleet ≠ none ∧ s.rosterIx b.fleet = none) ∨
        (s.rosterIx a.fleet = none ∧ s.rosterIx b.fleet = none ∧ a.fleet ≤ b.fleet))))) ∧
  (∀ s : State, s.scheduleSwapped = trackerHandsOn (({ (List.range s.deps.length).foldl State.removeDep s with
      deps := (s.schedule.live.toList.filter fun e : DepEntry => e.fleet != 0).map s.scheduledDep }).sortDeps.evalAll)
    fun v => allBuses.foldl State.reeval v) ∧
  (∀ (s : State) (old : Vector BusEntry 64), Reordered s (s.deps.map fun d =>
      if d.state.isOpen && (s.rosterIx d.fleet).isNone then { d with state := .cancelled, short := false, atRisk := false }
      else d) (s.fleetSwapped old)) ∧
  (∀ s : State, Reordered s ((s.schedule.live.toList.filter fun e => e.fleet != 0).map s.scheduledDep)
    s.scheduleSwapped) ∧
  (∀ (s : State) (e : DepEntry), let d := s.scheduledDep e
    let isNew := d.short = false ∧ d.atRisk = false ∧ d.state =
      if s.rosterIx e.fleet = none ∨ (∃ n, s.clock = some n ∧ s.sdMinute e.minute ≤ s.sdMinute (n / 60)) then .cancelled
      else .scheduled
    (d.fleet, d.minute, d.route, d.lead, d.power, d.enabled) = (e.fleet, e.minute, e.route, e.lead, e.power, e.enabled != 0#8) ∧
    (e.enabled = 0#8 → d.state = .disabled ∧ d.short = false ∧ d.atRisk = false) ∧
    (e.enabled ≠ 0#8 → (∀ x ∈ s.deps, x.fleet ≠ e.fleet ∨ x.minute ≠ e.minute) → isNew) ∧
    ∀ a x b, s.deps = a ++ x :: b → x.fleet = e.fleet → x.minute = e.minute →
      (∀ y ∈ a, y.fleet ≠ e.fleet ∨ y.minute ≠ e.minute) → e.enabled ≠ 0#8 →
      (x.enabled = false → isNew) ∧
      (x.enabled = true → d.state = x.state ∧ d.short = x.short ∧ d.atRisk = x.atRisk)) ∧
  (∀ (s : State) (roll : Nat), let q := s.policy.live.params
    let moved : State := if q.dayRoll = roll then s else s.sortDeps.evalAll
    let v := (trackerHandsOn moved fun w => allBuses.foldl State.reeval w).examineStorage
    let u : State := if (v.line v.active).health = .failed ∧ (v.line v.active.other).health = .good ∧
      q.autoSwitch = true then v.swapRoles 1 else v
    let waiting := (u.events.queue.filter fun r => r.record.cls == .routine && !r.inFlight).length
    s.policySwapped roll =
      if q.batchThreshold ≤ waiting then { u with events := { u.events with released := true } } else u) ∧
  ∀ (s : State) (roll : Nat),
    (s.policy.live.params.dayRoll = roll → (s.policySwapped roll).deps = s.deps ∧
      ∀ i, ((s.policySwapped roll).stall i).prot = true ↔ Guarded (s.policySwapped roll) i) ∧
    (s.policy.live.params.dayRoll ≠ roll → Reordered s s.deps (s.policySwapped roll))

/-- How a departure stands. A fleet number is rostered when an enabled entry of the live FLEET set has it (R43). The
active departure of a bus is its earliest open record, one SCHEDULED, CHARGING, READY or CONDITIONING (R74). One
evaluation of an open record sets its state, short flag and AT_RISK flag by the tables of R76, R77 and R81, and raises
READY or CONDITIONING_START on entry, and READY where the short flag clears (R76, R77); a terminal or DISABLED one is
not touched. A recompute of the AT_RISK flag raises AT_RISK with the projected shortfall, or AT_RISK_CLEARED, where the
flag changes (R81). An unplug inside or after the release window ends the active departure DEPARTED, or DEPARTED_SHORT
with the need, and otherwise only evaluates the bus's records (R79); an end of another cause returns them to SCHEDULED
with no event (R78). The protected flags follow (R82). All evaluations of one occurrence go in list order: the model's
choice (log 11). -/
def Obligations.DeparturesAreEvaluated : Prop :=
  (∀ (s : State) (m : Nat), s.sdMinute m = (m + 1440 - s.policy.live.params.dayRoll) % 1440) ∧
  (∀ st : Readiness, st.isOpen = true ↔ st = .scheduled ∨ st = .charging ∨ st = .ready ∨ st = .conditioning) ∧
  (∀ (s : State) (n : Nat) (b : BusIx),
    let named (c : BusIx) : Prop := (s.busEntry c).fleet = n ∧ n ≠ 0 ∧ (s.busEntry c).enabled ≠ 0#8
    s.rosterIx n = some b ↔ named b ∧ ∀ c, c < b → ¬ named c) ∧
  (∀ (s : State) (b : BusIx) (k : Nat), s.activeOf b = some k ↔ ∃ d, s.deps[k]? = some d ∧ ActiveAt s b k d) ∧
  (∀ (s : State) (i : StallIx), ((s.recomputeProt).stall i).prot = true ↔ Guarded s i) ∧
  (∀ s : State, s.evalAll = (List.range s.deps.length).foldl State.evalDep s ∧
    s.riskAll = (List.range s.deps.length).foldl State.riskDep s) ∧
  (∀ (s : State) (k : Nat) (d : Departure), s.deps[k]? = some d →
    let put (e : Departure) : State := { s with deps := s.deps.set k e }
    (d.state.isOpen = false → s.evalDep k = s) ∧
    (d.state.isOpen = true →
      ((∀ b, s.rosterIx d.fleet = some b → ActiveAt s b k d → (s.bus b).stall = none) →
        s.evalDep k = put { d with state := .scheduled, short := false, atRisk := false }) ∧
      ∀ b, s.rosterIx d.fleet = some b → ActiveAt s b k d → (s.bus b).stall ≠ none →
        let need := needFigure s b d
        (∀ n, s.clock = some n → deadlineFigure s d n ≤ 0 →
          let e := put { d with state := .conditioning, short := decide (0 < need) }
          (d.state ≠ .conditioning → s.evalDep k = e.raise .conditioningStart (.departure k) d.power) ∧
          (d.state = .conditioning → d.short = true → need = 0 → s.evalDep k = e.raise .ready (.departure k) 0) ∧
          (d.state = .conditioning → d.short = false ∨ 0 < need → s.evalDep k = e)) ∧
        ((∀ n, s.clock = some n → 0 < deadlineFigure s d n) →
          (0 < need → s.evalDep k = put { d with state := .charging, short := false }) ∧
          (need = 0 → let e := put { d with state := .ready, short := false, atRisk := false }
            (d.state = .ready → s.evalDep k = e) ∧
            (d.state ≠ .ready → s.evalDep k = e.raise .ready (.departure k) 0)))) ∧
    let flag (r : Bool) : State := put { d with atRisk := r }
    ((∀ b n, s.rosterIx d.fleet = some b → s.clock = some n → d.state = .charging ∨ d.state = .conditioning →
        0 < riskFigure s b d n →
        (d.atRisk = true → s.riskDep k = flag true) ∧
        (d.atRisk = false → s.riskDep k = (flag true).raise .atRisk (.departure k) (riskFigure s b d n))) ∧
      (¬ AtRisk s d → (d.atRisk = false → s.riskDep k = flag false) ∧
        (d.atRisk = true → s.riskDep k = (flag false).raise .atRiskCleared (.departure k) 0)))) ∧
  (∀ (s : State) (b : BusIx) (i : StallIx),
    ((∀ k d, s.deps[k]? = some d → ¬ ActiveAt s b k d) → s.assocEnded b i .unplug = s) ∧
    (∀ k d, s.deps[k]? = some d → ActiveAt s b k d →
      let ends (st : Readiness) : State := { s with deps := s.deps.set k { d with state := st, short := false, atRisk := false } }
      let within := ∃ n, s.clock = some n ∧
        (s.sdMinute d.minute : Int) - s.policy.live.params.releaseWindow ≤ s.sdMinute (n / 60)
      (within → needFigure s b d = 0 →
        s.assocEnded b i .unplug = ((ends .departed).raise .departed (.departure k) i.val).evalBus b) ∧
      (within → 0 < needFigure s b d → s.assocEnded b i .unplug =
        ((ends .departedShort).raise .departedShort (.departure k) (needFigure s b d)).evalBus b) ∧
      (¬ within → s.assocEnded b i .unplug = s.evalBus b))) ∧
  (∀ (s : State) (b : BusIx), s.rosterIx (s.busEntry b).fleet = some b → ∀ (k : Nat) (d : Departure),
    s.deps[k]? = some d →
    (d.fleet = (s.busEntry b).fleet → d.state.isOpen = true → ∃ e, (s.evalBus b).deps[k]? = some e ∧
      Evaluated (s.evalBus b) k e) ∧
    (d.fleet ≠ (s.busEntry b).fleet ∨ d.state.isOpen = false → (s.evalBus b).deps[k]? = some d)) ∧
  ∀ (s : State) (b : BusIx) (i : StallIx) (c : EndCause), s.rosterIx (s.busEntry b).fleet = some b →
    c = .fault ∨ c = .identity ∨ c = .displaced ∨ c = .outOfService →
    (s.assocEnded b i c).events = s.events ∧ (s.assocEnded b i c).buses = s.buses ∧
    ∀ (k : Nat) (d : Departure), s.deps[k]? = some d → (s.assocEnded b i c).deps[k]? = some
      (if d.fleet = (s.busEntry b).fleet ∧ d.state.isOpen = true then
        { d with state := .scheduled, short := false, atRisk := false } else d)

/-! ## SETPOINT and the Setpoint Path (07) -/

/-- SETPOINT is examined in the order of R119: the first condition that applies refuses it, changing nothing; otherwise
it is answered DONE or CLAMPED. -/
def Obligations.SetpointIsExamined : Prop :=
  ∀ (s : State) (tag stall cap lend : Byte), PortFree s →
    let bad := 47 < stall.toNat ∨ (250 < cap.toNat ∧ cap ≠ 0xFF#8) ∨ 1 < lend.toNat
    (s.configured = false → Ends (.setpoint tag stall cap lend) s (s.answered 0x4B#8 tag [rNotReady])) ∧
    (s.configured = true → s.superv.supervised = false →
      Ends (.setpoint tag stall cap lend) s (s.answered 0x4B#8 tag [rNotSupervised])) ∧
    (s.configured = true → s.superv.supervised = true → bad →
      Ends (.setpoint tag stall cap lend) s (s.answered 0x4B#8 tag [rRange])) ∧
    (s.configured = true → s.superv.supervised = true → ¬ bad → ∀ i : StallIx, i.val = stall.toNat →
      (s.stall i).inService = false ∨ (s.stall i).occ = .vacant ∨ (s.stall i).occ = .faulted →
      Ends (.setpoint tag stall cap lend) s (s.answered 0x4B#8 tag [rNotReady])) ∧
    (s.configured = true → s.superv.supervised = true → ¬ bad → ∀ i : StallIx, i.val = stall.toNat →
      (s.stall i).inService = true → (s.stall i).occ ≠ .vacant → (s.stall i).occ ≠ .faulted →
      ∃ t code rest, exec (.setpoint tag stall cap lend) s = .next t ∧ (code = rDone ∨ code = rClamped) ∧
        t.office.slot = some ⟨0xF0#8, 0x00#8, 0x4B#8, tag, code :: rest⟩)

/-- A served SETPOINT stores the cap, lowered to the port rating, and the permission, composes the stall's setpoint
anew, and answers with what is in force, CLAMPED when the cap was lowered or stands above the grant, with
SETPOINT_CLAMPED and the charge in force as its parameter (R120, R121). Where the permission changes at a stall in
SESSION, the Discharge Coordinator re-evaluates its bus, after the permission is stored and before the stall is
recomputed (R121, R126). With the permission as it was, no other stall moves, nothing else is raised, and the stall is
posted, unmarked, just where its setpoint changed (R115). The setpoint composed of a stall's fields: the charge grant,
bounded by the cap, while it is plugged under the ALLOCATOR with no discharge, and 0 otherwise; the conditioning grant
while it is plugged; and the discharge handed over (R112). -/
def Obligations.SetpointServed : Prop :=
  (∀ x : Stall,
    (x.occ.isPlugged = true → x.controller = .allocator → x.handed = 0 →
      (x.cap = none → x.composed.charge = x.grant) ∧ ∀ c, x.cap = some c → x.composed.charge = min x.grant c) ∧
    (x.occ.isPlugged = false ∨ x.controller ≠ .allocator ∨ x.handed ≠ 0 → x.composed.charge = 0) ∧
    x.composed.cond = (if x.occ.isPlugged then x.condGrant else 0) ∧ x.composed.dis = x.handed ∧
    (x.occ.isPlugged = true ↔ x.occ ≠ .vacant ∧ x.occ ≠ .faulted)) ∧
  ∀ (s : State) (tag stall cap lend : Byte) (i : StallIx), PortFree s → s.configured = true →
    s.superv.supervised = true → i.val = stall.toNat → (cap.toNat ≤ 250 ∨ cap = 0xFF#8) → lend.toNat ≤ 1 →
    (s.stall i).inService = true → (s.stall i).occ.isPlugged = true →
    let kept := if cap = 0xFF#8 then none else some (min cap.toNat (s.effPort i))
    let low := kept.any fun c => decide (c < cap.toNat) || decide ((s.stall i).grant < c)
    ∃ u, Ends (.setpoint tag stall cap lend) s (u.answered 0x4B#8 tag [if low then rClamped else rDone, stall,
        match kept with
        | some c => oct c
        | none => 0xFF#8,
        lend, oct (u.stall i).sp.charge, oct (u.stall i).sp.cond, oct (u.stall i).sp.dis]) ∧
      KeepsOutside s u ∧ (u.stall i).cap = kept ∧ (u.stall i).lend = decide (lend = 0#8) ∧
      (u.stall i).sp = (u.stall i).composed ∧ (∀ j, SameSession (s.stall j) (u.stall j)) ∧
      (low = true → ∃ w : State, u = w.raise .setpointClamped (.stall i) (u.stall i).sp.charge) ∧
      ((s.stall i).lend = decide (lend = 0#8) → (∀ j, j ≠ i → u.stall j = s.stall j) ∧ u.buses = s.buses ∧
        u.deps = s.deps ∧ u.storage = s.storage ∧ u.reserve = s.reserve ∧
        u.events = (if low then s.raise .setpointClamped (.stall i) (u.stall i).sp.charge else s).events ∧
        ((u.stall i).sp = (s.stall i).sp → u.setQ = s.setQ ∧ (u.stall i).lastPosted = (s.stall i).lastPosted) ∧
        ((u.stall i).sp ≠ (s.stall i).sp → u.setQ = postEntry s.setQ i false ∧ (u.stall i).lastPosted = s.pathSecond)) ∧
      let put : State := { s with office := { s.office with
          rx := s.office.rx.afterValid, inHand := some ⟨tag, .setpoint stall cap lend⟩ } }.setStall i
        { s.stall i with cap := kept, lend := decide (lend = 0#8) }
      ∀ v : State, ((s.stall i).lend = decide (lend = 0#8) ∨ (s.stall i).occ ≠ .session → v = put) →
        ((s.stall i).lend ≠ decide (lend = 0#8) → (s.stall i).occ = .session →
          ∃ b, (s.stall i).bus = some b ∧ v = put.reeval b) →
        let x := v.stall i
        let w : State := if x.composed = x.sp then v else { v.setStall i
          { x with sp := x.composed, lastPosted := v.pathSecond } with setQ := postEntry v.setQ i false }
        Ends (.setpoint tag stall cap lend) s
          ((if low then w.raise .setpointClamped (.stall i) (w.stall i).sp.charge else w).answer
            [if low then rClamped else rDone, stall,
              match kept with
              | some c => oct c
              | none => 0xFF#8,
              lend, oct (w.stall i).sp.charge, oct (w.stall i).sp.cond, oct (w.stall i).sp.dis])

/-- A posting keeps one entry per stall in two groups, reserve-marked ahead: a new entry joins the tail of its group, a
reserve-marked posting moves an unmarked entry to the tail of the reserve group, any other leaves an entry in place,
and an existing entry loses its in-flight mark (R26). When the path second count advances, every plugged stall last
posted 10 s or more before is posted, unmarked, in ascending stall number, with its setpoint as it was; no other stall
is posted or touched, and nothing outside the queue moves (R118, R26). -/
def Obligations.PostingsKeepTheQueueAndAreRefreshed : Prop :=
  (∀ (q : List SetEntry) (i : StallIx) (mark : Bool), QueueOrdered q →
    QueueOrdered (postEntry q i mark) ∧
    ((∀ e ∈ q, e.stall ≠ i) → mark = false → postEntry q i mark = q ++ [⟨i, false, false⟩]) ∧
    ((∀ e ∈ q, e.stall ≠ i) → mark = true → ∃ a b, q = a ++ b ∧ (∀ e ∈ a, e.reserve = true) ∧
      (∀ e ∈ b, e.reserve = false) ∧ postEntry q i mark = a ++ [⟨i, true, false⟩] ++ b) ∧
    (∀ a b r f, q = a ++ [⟨i, r, f⟩] ++ b → (mark = false ∨ r = true) →
      postEntry q i mark = a ++ [⟨i, r, false⟩] ++ b) ∧
    (∀ a b c f, q = a ++ b ++ [⟨i, false, f⟩] ++ c → mark = true → (∀ e ∈ a, e.reserve = true) →
      (∀ e ∈ b, e.reserve = false) → postEntry q i mark = a ++ [⟨i, true, false⟩] ++ (b ++ c))) ∧
  ∀ s : State, let n := (s.pathSecond + 1) % 65536
    let due (i : StallIx) : Bool :=
      (s.stall i).occ.isPlugged && decide (10 ≤ (n + 65536 - (s.stall i).lastPosted) % 65536)
    ∃ u, Ends .pathSecondTick s u ∧
      (∀ i, u.stall i = if due i then { s.stall i with lastPosted := n } else s.stall i) ∧
      u.setQ = (allStalls.filter due).foldl (fun q i => postEntry q i false) s.setQ ∧
      u = { s with pathSecond := n, stalls := u.stalls, setQ := u.setQ }

/-! ## The stall lines (02) -/

/-- LINE SELECT: RANGE for another line, DONE with nothing moved for the ACTIVE one, NOT_GOOD for a STANDBY line in
TEST or FAILED beside a line that is not, and otherwise DONE with the roles swapped (R34). A change of role: the other
line is ACTIVE with nothing of the old one's traffic left; the old line's CHECK state is cleared; the poll position
goes back to before an abandoned POLL, and an abandoned probe is outstanding no more; the setpoint queue keeps its
entries; a pass-through frame being sent is dropped, with PASSTHROUGH_DROPPED 3; LINE_SWITCH is raised with its cause;
and the census starts where it is IDLE and an address is ABSENT; receivers and healths stand (R7, R32, R33). -/
def Obligations.RolesSwapAndLineSelect : Prop :=
  (∀ (s : State) (tag line : Byte), PortFree s →
    (1 < line.toNat → Ends (.lineSelect tag line) s (s.answered 0x4C#8 tag [rRange])) ∧
    ∀ l : StallLine, line = oct (StallLine.index l) →
      (s.active = l → Ends (.lineSelect tag line) s (s.answered 0x4C#8 tag [rDone])) ∧
      (s.active ≠ l → ((s.line l).health = .test ∨
          ((s.line l).health = .failed ∧ (s.line s.active).health ≠ .failed)) →
        Ends (.lineSelect tag line) s (s.answered 0x4C#8 tag [rNotGood])) ∧
      (s.active ≠ l → ((s.line l).health = .good ∨
          ((s.line l).health = .failed ∧ (s.line s.active).health = .failed)) →
        Ends (.lineSelect tag line) s ((s.swapRoles 2).answered 0x4C#8 tag [rDone]))) ∧
  ∀ (s : State) (why : Nat), let u := s.swapRoles why
    (u.active = s.active.other ∧ u.between = 0 ∧ u.window = none) ∧
    ((u.line s.active).tx = none ∧ (u.line s.active).unanswered = 0 ∧ (u.line s.active).rotation = none ∧
      (u.line s.active).checkOut = none) ∧
    ((u.line u.active).checkOut = none ∧ (∀ d, (u.line u.active).tx ≠ some (.check d))) ∧
    (∀ l, (u.line l).rx = (s.line l).rx ∧ (u.line l).health = (s.line l).health ∧ (u.line l).qual = (s.line l).qual ∧
      (u.line l).errors = (s.line l).errors) ∧
    u.setQ.map SetEntry.key = s.setQ.map SetEntry.key ∧
    (∀ i a b c, (s.line s.active).tx = some (.set i a b c) → ∀ e ∈ u.setQ, e.stall = i → e.inFlight = false) ∧
    (∀ f, (s.line s.active).tx = some (.pass f) → u.passQ = s.passQ.drop 1) ∧
    ((∀ f, (s.line s.active).tx ≠ some (.pass f)) → u.passQ = s.passQ) ∧
    (∀ d before, (s.line s.active).tx = some (.poll d before) → s.window = none → u.pollPos = before) ∧
    (∀ d before, s.window = some (.poll d before) → u.pollPos = before) ∧
    (u.plant = s.plant ∧ u.stalls = s.stalls ∧ u.buses = s.buses ∧ u.deps = s.deps ∧ u.site = s.site ∧
      u.office = s.office ∧ u.reserve = s.reserve ∧ u.storage = s.storage ∧ u.alloc = s.alloc) ∧
    (∀ f d, (s.line s.active).tx = some (.pass f) → f.dest = addrOf d → u.events =
      ((s.raise .passthroughDropped (.dispenser d) 3).raise .lineSwitch (.line s.active.other.line) why).events) ∧
    ((∀ f d, (s.line s.active).tx = some (.pass f) → f.dest ≠ addrOf d) →
      u.events = (s.raise .lineSwitch (.line s.active.other.line) why).events) ∧
    let cut := (∃ a b, (s.line s.active).tx = some (.census a b)) ∨ ∃ a, s.window = some (.census a)
    let starts := s.census.running = false ∧ ∃ d, (s.pres d).presence = .absent
    (¬ starts → u.presence = s.presence ∧ (cut → u.census = { s.census with outstanding := false }) ∧
      (¬ cut → u.census = s.census)) ∧
    (starts → u.census.running = true ∧ u.census.outstanding = false ∧ u.census.unlistedSeen = Vector.replicate 24 false ∧
      (∀ d, u.census.probe = some d ↔ (s.pres d).presence ≠ .unlisted ∧ ∀ c : DispIx, c < d → (s.pres c).presence = .unlisted) ∧
      ∀ d, u.pres d = if (s.pres d).presence = .unlisted then s.pres d else { s.pres d with miss := 0 })

/-- LINE TEST: RANGE for another line, BUSY for the ACTIVE line or one already in TEST; otherwise the test starts with
frame 0, the line's health and count remembered, its CHECK abandoned, and the request stays in hand (R35). The frames
of a LINE TEST: the end of a frame's transmission waits for its copy, or brings the next frame when the copy has come
already; an intact copy counts; the copy of a frame sent, or the end of its 10 ms, brings the next frame; and the
eighth frame's copy, or the end of its 10 ms, ends the test: the line is as it was remembered, the role rule is
applied, so that the roles swap where the ACTIVE line is FAILED, the STANDBY line GOOD and auto line switch on (R32),
and the request is answered DONE with the count (R35). That a copy which comes before its frame's end is held, and that
the receiver is in HUNT at the start and at the end, is the model's reading (log 20, DEDUCED); that a copy leaves the
run of bad frames of R18 as it was is its choice (log 36). -/
def Obligations.LineTestRuns : Prop :=
  (∀ (s : State) (tag line : Byte), PortFree s →
    (1 < line.toNat → Ends (.lineTest tag line) s (s.answered 0x4D#8 tag [rRange])) ∧
    ∀ l : StallLine, line = oct (StallLine.index l) →
      (s.active = l ∨ (s.line l).health = .test → Ends (.lineTest tag line) s (s.answered 0x4D#8 tag [rBusy])) ∧
      (s.active ≠ l → (s.line l).health ≠ .test → ∃ t, exec (.lineTest tag line) s = .next t ∧
        t.test = some ⟨l, (s.line l).health, (s.line l).qual, 0, 0, false⟩ ∧ t.office.slot = none ∧
        t.office.inHand = some ⟨tag, .lineTest line⟩ ∧ (t.line l).health = .test ∧
        (t.line l).tx = some (.test 0) ∧ (t.line l).checkOut = none ∧ (t.line l).rx.state = .hunt ∧
        (t.line l).errors = (s.line l).errors ∧ t.active = s.active ∧ t.stalls = s.stalls ∧ t.plant = s.plant ∧
        t.presence = s.presence ∧ t.records = s.records)) ∧
  ∀ (s : State) (x : LineTest) (tag : Byte) (body : List Byte), s.test = some x →
    let count := if tag = oct x.number ∧ body = [0xC5#8, 0xB7#8, 0x3A#8, 0x00#8, 0xFF#8, 0x55#8, 0xAA#8, 0x01#8]
      then x.intact + 1 else x.intact
    let next (n : Nat) (t : State) : Prop := t.test = some { x with number := x.number + 1, looped := false, intact := n } ∧
      (t.line x.line).tx = some (.test (x.number + 1))
    let ended (n : Nat) (r : TaggedReq) (t : State) : Prop := t.test = none ∧ (t.line x.line).health = x.savedHealth ∧
      (t.line x.line).qual = x.savedQual ∧ (t.line x.line).errors = (s.line x.line).errors ∧
      (t.line x.line).unanswered = 0 ∧ (t.line x.line).silence = 0 ∧ (t.line x.line).rx.state = .hunt ∧
      t.office.slot = some ⟨0xF0#8, 0x00#8, r.req.kind, r.tag, [0x00#8, oct n]⟩ ∧ t.office.inHand = none
    let home : State := { s.modLine x.line fun y => { y with
        rx := { y.rx with state := .hunt, buf := [], esc := false }, health := x.savedHealth, qual := x.savedQual
        silence := 0, unanswered := 0, checkOut := none, checkDue := false, tx := none } with test := none }
    let ruled : State := if (home.line s.active).health = .failed ∧ (home.line s.active.other).health = .good ∧
      s.policy.live.params.autoSwitch = true then home.swapRoles 1 else home
    let answered (n : Nat) (r : TaggedReq) : State := { ruled with office := { ruled.office with
      slot := some ⟨0xF0#8, 0x00#8, r.req.kind, r.tag, [0x00#8, oct n]⟩, inHand := none } }
    (∀ y, (s.line x.line).tx = some y → x.looped = false → ∃ t, exec .testFrameSent s = .next t ∧ t.test = some x ∧
      ((s.line x.line).health = .test → (t.line x.line).tx = none)) ∧
    (∀ y, (s.line x.line).tx = some y → x.looped = true → x.number < 7 →
      ∃ t, exec .testFrameSent s = .next t ∧ next x.intact t) ∧
    (∀ y, (s.line x.line).tx = some y → x.looped = false →
      Ends (.testFrameLooped tag body) s { s with test := some { x with looped := true, intact := count } }) ∧
    (x.looped = false → (s.line x.line).tx = none → x.number < 7 →
      ∃ t, exec (.testFrameLooped tag body) s = .next t ∧ next count t) ∧
    ((s.line x.line).tx = none → x.number < 7 → ∃ t, exec .testFrameTimeout s = .next t ∧ next x.intact t) ∧
    (∀ r, x.number = 7 → s.office.inHand = some r →
      ((s.line x.line).tx = none → ∃ t, exec .testFrameTimeout s = .next t ∧ ended x.intact r t) ∧
      ((s.line x.line).tx = none → x.looped = false →
        ∃ t, exec (.testFrameLooped tag body) s = .next t ∧ ended count r t) ∧
      (∀ y, (s.line x.line).tx = some y → x.looped = true →
        ∃ t, exec .testFrameSent s = .next t ∧ ended x.intact r t) ∧
      ((s.line x.line).tx = none → Ends .testFrameTimeout s (answered x.intact r)) ∧
      ((s.line x.line).tx = none → x.looped = false → Ends (.testFrameLooped tag body) s (answered count r)) ∧
      (∀ y, (s.line x.line).tx = some y → x.looped = true → Ends .testFrameSent s (answered x.intact r)))

/-- CENSUS START: NOT_READY while UNCONFIGURED, BUSY while RUNNING, and otherwise DONE, the census RUNNING at the lowest
listed address with all listed miss counts 0 and no presence changed; with none listed it ends at once (R7, R11). -/
def Obligations.CensusStart : Prop :=
  ∀ (s : State) (tag : Byte), PortFree s →
    (s.configured = false → Ends (.censusStart tag) s (s.answered 0x4E#8 tag [rNotReady])) ∧
    (s.configured = true → s.census.running = true → Ends (.censusStart tag) s (s.answered 0x4E#8 tag [rBusy])) ∧
    (s.configured = true → s.census.running = false → ∀ d : DispIx, (s.pres d).presence ≠ Presence.unlisted →
      (∀ c : DispIx, c < d → (s.pres c).presence = .unlisted) →
      Ends (.censusStart tag) s ({ s with
        presence := tab fun c => if (s.pres c).presence = Presence.unlisted then s.pres c else { s.pres c with miss := 0 }
        census := ⟨true, some d, false, Vector.replicate 24 false⟩ }.answered 0x4E#8 tag [rDone])) ∧
    (s.configured = true → s.census.running = false → (∀ d : DispIx, (s.pres d).presence = .unlisted) →
      Ends (.censusStart tag) s ((({ s with census := ⟨false, none, false, Vector.replicate 24 false⟩ }).raise .censusDone
        .part 0).answered 0x4E#8 tag [rDone]))

/-- A pass-through frame joins its queue, or is dropped with PASSTHROUGH_DROPPED: 2 while UNCONFIGURED, 1 for a kind the
part sends itself, 0 when 8 wait (R28). -/
def Obligations.PassthroughFrames : Prop :=
  ∀ (s : State) (dest kind tag : Byte) (body : List Byte) (d : DispIx), dest = addrOf d →
    s.office.rx.state ≠ .brk →
    let u := { s with office := { s.office with rx := s.office.rx.afterValid } }
    let own := kind = 0x10#8 ∨ kind = 0x12#8 ∨ kind = 0x13#8 ∨ kind = 0x15#8 ∨ kind = 0x17#8 ∨ kind = 0x18#8
    (s.configured = false →
      Ends (.passthroughFrame dest kind tag body) s (u.raise .passthroughDropped (.dispenser d) 2)) ∧
    (s.configured = true → own →
      Ends (.passthroughFrame dest kind tag body) s (u.raise .passthroughDropped (.dispenser d) 1)) ∧
    (s.configured = true → ¬ own → 8 ≤ s.passQ.length →
      Ends (.passthroughFrame dest kind tag body) s (u.raise .passthroughDropped (.dispenser d) 0)) ∧
    (s.configured = true → ¬ own → s.passQ.length < 8 →
      Ends (.passthroughFrame dest kind tag body) s { u with passQ := s.passQ ++ [⟨dest, 0xF0#8, kind, tag, body⟩] })

/-- The ends of the office line's transmissions, each of which leaves the transmitter free: a response leaves the slot,
and the DONE of RESET brings the soft reset (R160, R165); a forwarded frame leaves its queue and clears the drop mark
(R161); the records a frame carried leave the event queue (R180). When a response has been sent the next request that
waits is taken, and answered with what it brings, at once or later (R159). -/
def Obligations.OfficeTransmissionsEnd : Prop :=
  ∀ s : State,
    (∀ f, s.office.tx = some (.response f) → (f.kind ≠ 0x42#8 ∨ f.body ≠ [0x00#8]) → s.office.inbound = [] →
      Ends .responseSent s { s with office := { s.office with tx := none, slot := none } }) ∧
    (∀ f, s.office.tx = some (.response f) → f.kind = 0x42#8 → f.body = [0x00#8] →
      exec .responseSent s = exec .softReset s) ∧
    (∀ f, s.office.tx = some (.forward f) → Ends .forwardFrameSent s
      { s with office := { s.office with tx := none, forward := s.office.forward.drop 1, dropMark := false } }) ∧
    (∀ o rs, s.office.tx = some (.event o rs) → Ends .eventFrameSent s { s with
      office := { s.office with tx := none }
      events := { s.events with queue := s.events.queue.filter fun q => !q.inFlight } }) ∧
    (∀ f r rest, s.office.tx = some (.response f) → (f.kind ≠ 0x42#8 ∨ f.body ≠ [0x00#8]) → s.office.inHand = none →
      s.office.inbound = r :: rest →
      let hand := { s with office := { s.office with tx := none, slot := none, inHand := some r, inbound := rest } }
      (∀ b, (hand.serve r.req).2 = some b → Ends .responseSent s ((hand.serve r.req).1.answer b)) ∧
      ((hand.serve r.req).2 = none → Ends .responseSent s (hand.serve r.req).1))

/-- A record raised carries its kind, its class, URGENT in the cases of R175 and otherwise by the CLASSES table of the
live POLICY set, its subject, its parameter held to 16 bits, a COMMITTED generation as its 16 bits, and the clock
(R175). It joins the tail of the queue while it holds fewer than 64; with 64 a routine record is dropped, an urgent one
displaces the oldest routine one, or is dropped when all are urgent; each loss sets the overflow mark (R177). A routine
record that joins starts the hold timer where none waited, and releases the hold where the batch threshold is reached;
a displaced one that was the last to wait stops the timer, and the release is held again (R178). The hold timer's
expiry releases the routine records: they are sent at once when the office line is free and has nothing before them,
and stay released while it is not (R178). -/
def Obligations.EventQueueAndItsHold : Prop :=
  (∀ (s : State) (k : EventKind) (x : Subject) (p : Int),
    let always := k = .reserveActive ∨ k = .reserveShortfall ∨ k = .reserveEnd ∨ k = .supervisorLost ∨ k = .start ∨
      (k = .lineSwitch ∧ p = 0)
    let q := s.policy.live.params
    ∃ c n, s.raise k x p =
        { s with events := s.events.offer ⟨k, c, x, n, s.clock⟩ q.holdTime q.batchThreshold } ∧
      (always → c = .urgent) ∧ (¬ always → s.policy.live.classes.toList[k.code]? = some c) ∧
      (k ≠ .committed → n = max (-32768) (min 32767 p)) ∧
      (k = .committed → 0 ≤ p → p < 65536 → n = if p < 32768 then p else p - 65536)) ∧
  (∀ (e : EventQueue) (r : EventRec) (hold batch : Nat),
    (e.queue.length < 64 → (e.offer r hold batch).queue = e.queue ++ [⟨r, false⟩] ∧
      (e.offer r hold batch).overflow = e.overflow ∧
      let waits := (e.queue.filter fun q => q.record.cls == .routine && !q.inFlight).length
      (r.cls = .urgent → (e.offer r hold batch).hold = e.hold ∧ (e.offer r hold batch).released = e.released) ∧
      (r.cls = .routine → (e.offer r hold batch).hold = (if waits = 0 then some hold else e.hold) ∧
        ((e.offer r hold batch).released = true ↔ e.released = true ∨ batch ≤ waits + 1))) ∧
    (64 ≤ e.queue.length → (e.offer r hold batch).overflow = true) ∧
    (64 ≤ e.queue.length → (r.cls = .routine ∨ ∀ q ∈ e.queue, q.record.cls = .urgent) →
      (e.offer r hold batch).queue = e.queue ∧ (e.offer r hold batch).hold = e.hold ∧
        (e.offer r hold batch).released = e.released) ∧
    (64 ≤ e.queue.length → r.cls = .urgent → ∀ a q b, e.queue = a ++ q :: b → q.record.cls = .routine →
      (∀ x ∈ a, x.record.cls = .urgent) → (e.offer r hold batch).queue = a ++ b ++ [⟨r, false⟩] ∧
        let last := q.inFlight = false ∧ ∀ x ∈ b, x.record.cls = .routine → x.inFlight = true
        (last → (e.offer r hold batch).hold = none ∧ (e.offer r hold batch).released = false) ∧
        (¬ last → (e.offer r hold batch).hold = e.hold ∧ (e.offer r hold batch).released = e.released))) ∧
  ∀ (s : State) (n : Nat), s.events.hold = some n →
    Ends .routineHoldExpiry s { s with events := { s.events with hold := none, released := true } } ∧
    (∀ x, s.office.tx = some x → ∃ t, exec .routineHoldExpiry s = .next t ∧ t.events.released = true ∧
      t.events.hold = none) ∧
    (s.office.tx = none → s.office.slot = none → s.office.forward = [] → s.events.urgentReady = false →
      (s.events.queue.any fun q => q.record.cls == .routine && !q.inFlight) = true →
      ∃ t o rs, exec .routineHoldExpiry s = .next t ∧ t.office.tx = some (.event o rs) ∧ rs ≠ [])

/-! ## The receivers (R17 to R19, R55, R157) -/

/-- A bad frame, and a gap, count on their line, hold at 65535, end the frame being assembled, and raise FRAME_ERROR at
the first since a valid frame; on a stall line the qualification count returns to 0. On a line in TEST the frame being
assembled ends as well, and nothing is counted or raised (R35); that the run of bad frames of R18 stands there as it
was is the model's choice (log 36). In BREAK nothing is received. -/
def Obligations.BadFramesCount : Prop :=
  ∀ (s : State) (resync : Bool), let rx (r : Receiver) : Receiver := { r with
      state := if resync then .sync1Seen else .hunt, buf := [], esc := false, badSince := true }
    let mark (u : State) (r : Receiver) (l : Line) (n : Nat) := if r.badSince then u else u.raise .frameError (.line l) n
    (∀ l : Line, exec (.gapError l) s = exec (.badFrame l false) s) ∧
    (∀ l : StallLine, (s.line l).rx.state ≠ .brk → (s.line l).health ≠ .test →
      let n := min 65535 ((s.line l).errors + 1)
      Ends (.badFrame l.line resync) s (mark (s.modLine l fun x => { x with errors := n, qual := 0, rx := rx x.rx })
        (s.line l).rx l.line n)) ∧
    (∀ l : StallLine, (s.line l).rx.state ≠ .brk → (s.line l).health = .test → Ends (.badFrame l.line resync) s
      (s.modLine l fun x => { x with rx := { rx x.rx with badSince := x.rx.badSince } })) ∧
    (∀ l : Line, (s.rx l).state = .brk → Ends (.badFrame l resync) s s) ∧
    (s.site.rx.state ≠ .brk → let n := min 65535 (s.site.errors + 1)
      Ends (.badFrame .meter resync) s
        (mark { s with site := { s.site with errors := n, rx := rx s.site.rx } } s.site.rx .meter n)) ∧
    (s.office.rx.state ≠ .brk → let n := min 65535 (s.office.errors + 1)
      Ends (.badFrame .office resync) s
        (mark { s with office := { s.office with errors := n, rx := rx s.office.rx } } s.office.rx .office n))

/-- A break stops the receiver and is a line fault on a stall line: a GOOD line fails with LINE_FAILED, cause 1, its
count 0, and the roles swap where R32 says so; a FAILED line's count returns to 0. On the meter and office lines it
does no more. At its end the receiver hunts (R19, R30, R55, R157). Silence for 3 s with a dispenser PRESENT is a line
fault likewise, cause 2, and restarts the timer. With the other line FAILED too LINE_SWITCH, parameter 0, is raised
(R30). With no dispenser PRESENT, or in TEST, silence does nothing. On a line in TEST, whose receiver does not listen
to it, a break only moves the level that is followed: the model's choice (log 5), not a rule. -/
def Obligations.BreaksAndSilenceFailTheLine : Prop :=
  (∀ s : State, let cut (r : Receiver) : Receiver := { r with state := .brk, buf := [], esc := false, atSpace := true }
    (∀ l : StallLine, (s.line l).rx.state ≠ .brk → (s.line l).health = .failed → Ends (.breakDetected l.line) s
      (s.modLine l fun x => { x with qual := 0, rx := cut x.rx })) ∧
    (∀ l : StallLine, (s.line l).rx.state ≠ .brk → (s.line l).health = .good → (s.line l.other).health = .failed →
      Ends (.breakDetected l.line) s
      (((s.modLine l fun x => { x with health := .failed, qual := 0, rx := cut x.rx }).raise .lineFailed (.line l.line)
        1).raise .lineSwitch (.line s.active.line) 0)) ∧
    (∀ l : StallLine, (s.line l).rx.state ≠ .brk → (s.line l).health = .good → (s.line l.other).health ≠ .failed →
      (s.active ≠ l ∨ s.policy.live.params.autoSwitch = false ∨ (s.line l.other).health = .test) →
      Ends (.breakDetected l.line) s
      ((s.modLine l fun x => { x with health := .failed, qual := 0, rx := cut x.rx }).raise .lineFailed (.line l.line) 1)) ∧
    (∀ l : StallLine, (s.line l).rx.state ≠ .brk → (s.line l).health = .good → (s.line l.other).health = .good →
      s.active = l → s.policy.live.params.autoSwitch = true → Ends (.breakDetected l.line) s
      (((s.modLine l fun x => { x with health := .failed, qual := 0, rx := cut x.rx }).raise .lineFailed
        (.line l.line) 1).swapRoles 1)) ∧
    (s.site.rx.state ≠ .brk → Ends (.breakDetected .meter) s { s with site := { s.site with rx := cut s.site.rx } }) ∧
    (s.office.rx.state ≠ .brk →
      Ends (.breakDetected .office) s { s with office := { s.office with rx := cut s.office.rx } }) ∧
    (∀ l : Line, (s.rx l).state = .brk → Ends (.breakDetected l) s s) ∧
    (∀ l : StallLine, (s.line l).rx.state ≠ .brk → (s.line l).health = .test → Ends (.breakDetected l.line) s
      (s.modLine l fun x => { x with rx := { x.rx with atSpace := true } })) ∧
    ∀ l : Line, (s.rx l).state = .brk → Ends (.breakEnd l) s (s.setRx l { s.rx l with state := .hunt, atSpace := false })) ∧
  ∀ (s : State) (l : StallLine),
    (s.presentCount = 0 ∨ (s.line l).health = .test → Ends (.silenceTimeout l) s s) ∧
    (0 < s.presentCount → (s.line l).health = .failed → Ends (.silenceTimeout l) s
      (s.modLine l fun x => { x with silence := 0, qual := 0 })) ∧
    (0 < s.presentCount → (s.line l).health = .good → (s.line l.other).health = .failed →
      Ends (.silenceTimeout l) s (((s.modLine l fun x => { x with silence := 0, health := .failed, qual := 0 }).raise
        .lineFailed (.line l.line) 2).raise .lineSwitch (.line s.active.line) 0)) ∧
    (0 < s.presentCount → (s.line l).health = .good → (s.line l.other).health ≠ .failed →
      (s.active ≠ l ∨ s.policy.live.params.autoSwitch = false ∨ (s.line l.other).health = .test) →
      Ends (.silenceTimeout l) s
        ((s.modLine l fun x => { x with silence := 0, health := .failed, qual := 0 }).raise .lineFailed (.line l.line) 2)) ∧
    (0 < s.presentCount → (s.line l).health = .good → (s.line l.other).health = .good → s.active = l →
      s.policy.live.params.autoSwitch = true → Ends (.silenceTimeout l) s
        (((s.modLine l fun x => { x with silence := 0, health := .failed, qual := 0 }).raise .lineFailed (.line l.line)
          2).swapRoles 1))

/-- The frames the part sends on its own, with their octets, an event frame with its records among them (12.4, 12.6,
R25, R35, R180), and those it passes on as they are. A frame is sent as SYNC1 and SYNC2 and then its five header
octets, its body and their CRC-16, most significant octet first, with 0xC5 and 0xB7 escaped; the CRC-16 is the register
of polynomial 0x1021, first 0xFFFF, that takes each octet's bits from the highest down, and gives 0x29B1 over
"123456789" (R182). A receiver that hunts takes those octets apart into exactly that frame, at the last of them,
whatever the frame holds (R17, R18). -/
def Obligations.ReceiverReadsWhatIsSent : Prop :=
  (crc16 [] = 0xFFFF#16 ∧
    (∀ os o, crc16 (os ++ [o]) = (List.range 8).foldl (fun (c : BitVec 16) k =>
      (c <<< 1) ^^^ (if c.msb = o.getLsbD (7 - k) then 0x0000#16 else 0x1021#16)) (crc16 os)) ∧
    crc16 [0x31#8, 0x32#8, 0x33#8, 0x34#8, 0x35#8, 0x36#8, 0x37#8, 0x38#8, 0x39#8] = 0x29B1#16 ∧
    ∀ f : Frame, let covered : List Byte := f.dest :: f.src :: f.kind :: f.tag :: BitVec.ofNat 8 f.body.length :: f.body
      let c := crc16 covered
      wireOctets f = 0xC5#8 :: 0x3A#8 :: (covered ++ [(c >>> 8).setWidth 8, c.setWidth 8]).flatMap fun o =>
        if o = 0xC5#8 then [0xB7#8, 0x01#8] else if o = 0xB7#8 then [0xB7#8, 0x02#8] else [o]) ∧
  ((∀ (d : DispIx) (p : Option DispIx) (k : Bool), (StallTx.poll d p).frame = ⟨addrOf d, 0x00#8, 0x10#8, 0x00#8, []⟩ ∧
      (StallTx.census d k).frame = ⟨addrOf d, 0x00#8, 0x13#8, 0x00#8, []⟩ ∧
      (StallTx.check d).frame = ⟨addrOf d, 0x00#8, 0x15#8, 0x00#8, []⟩) ∧
    (∀ n, (StallTx.fill n).frame = ⟨0xFF#8, 0x00#8, 0x17#8, 0x00#8, [oct n]⟩ ∧ (StallTx.test n).frame =
      ⟨0x00#8, 0x00#8, 0x18#8, oct n, [0xC5#8, 0xB7#8, 0x3A#8, 0x00#8, 0xFF#8, 0x55#8, 0xAA#8, 0x01#8]⟩) ∧
    (∀ f, (StallTx.pass f).frame = f ∧ (OfficeTx.response f).frame = f ∧ (OfficeTx.forward f).frame = f) ∧
    ∀ lost rs, (OfficeTx.event lost rs).frame = ⟨0xF0#8, 0x00#8, 0x60#8, 0x00#8, (if lost then 0x01#8 else 0x00#8) ::
      oct rs.length :: rs.flatMap fun r => [oct r.kind.code, if r.cls = .urgent then 0x01#8 else 0x00#8,
        r.subject.kindOctet, oct r.subject.index] ++ be16 (r.param % 65536).toNat ++
          be32 (r.time.getD 0xFFFFFFFF)⟩) ∧
  ∀ (f : Frame) (r : Receiver), f.body.length ≤ 240 → r.state = .hunt →
    r.feed (wireOctets f) = ({ r with state := .hunt, buf := [], esc := false },
      List.replicate ((wireOctets f).length - 1) .quiet ++ [.valid f])

/-- What the receiver does with an octet, by its state (R17): HUNT looks for SYNC1 and SYNC1_SEEN for SYNC2; in FRAME
an escape is held and decoded with the octet after it, and an escape before any other octet, or an unescaped SYNC1,
ends a bad frame, after which SYNC1 stands as the first of a new one. A decoded octet joins the frame (R18): a body
length above 240 ends a bad frame with the header, and the second CRC octet ends a valid frame where the CRC-16 agrees
and a bad one where it does not. One octet moves only its line's receiver while no frame ends; the octet that ends a
valid frame brings that frame's command, and one that ends a bad frame the bad frame's; and a frame that no delivery
table takes only ends the run of bad frames (R17, R18, R20, R28, R35, R55, R64, R157). That a frame's command stands
for all its octets is the model's choice (log 12, DEDUCED). -/
def Obligations.OctetsBringFrames : Prop :=
  (∀ (r : Receiver) (o : Byte),
    let left (x : RxState) : Receiver := { r with state := x, buf := [], esc := false }
    let fails : Receiver × RxEvent := (left (if o = 0xC5#8 then .sync1Seen else .hunt), .bad)
    (r.state = .brk → r.octet o = (r, .quiet)) ∧
    (r.state = .hunt → r.octet o = (if o = 0xC5#8 then { r with state := .sync1Seen } else r, .quiet)) ∧
    (r.state = .sync1Seen →
      r.octet o = (if o = 0x3A#8 then left .frame else if o = 0xC5#8 then r else left .hunt, .quiet)) ∧
    (r.state = .frame → r.esc = true → o ≠ 0x01#8 → o ≠ 0x02#8 → r.octet o = fails) ∧
    (r.state = .frame → r.esc = false → o = 0xC5#8 → r.octet o = fails) ∧
    (r.state = .frame → r.esc = false → o = 0xB7#8 → r.octet o = ({ r with esc := true }, .quiet)) ∧
    ∀ x, r.state = .frame → (r.esc = true ∧ o = 0x01#8 ∧ x = 0xC5#8) ∨ (r.esc = true ∧ o = 0x02#8 ∧ x = 0xB7#8) ∨
        (r.esc = false ∧ o ≠ 0xC5#8 ∧ o ≠ 0xB7#8 ∧ x = o) →
      let taken := r.buf ++ [x]
      let waits : Receiver × RxEvent := ({ r with buf := taken, esc := false }, .quiet)
      (taken.length < 5 → r.octet o = waits) ∧
      ∀ dest src kind tag n rest, taken = dest :: src :: kind :: tag :: n :: rest →
        (rest = [] → 240 < n.toNat → r.octet o = (left .hunt, .bad)) ∧
        (rest.length ≠ n.toNat + 2 → (rest = [] → n.toNat ≤ 240) → r.octet o = waits) ∧
        ∀ body a b, rest = body ++ [a, b] → body.length = n.toNat → r.octet o = (left .hunt,
          if a ++ b = crc16 (dest :: src :: kind :: tag :: n :: body) then .valid ⟨dest, src, kind, tag, body⟩ else .bad)) ∧
  ∀ (s : State) (l : Line) (o : Byte),
    (((s.rx l).octet o).2 = .quiet → Ends (.octetReceived l o) s (s.setRx l ((s.rx l).octet o).1)) ∧
    (((s.rx l).octet o).2 = .bad → exec (.octetReceived l o) s = exec (.badFrame l (o == 0xC5#8)) s) ∧
    (∀ m : StallLine, (s.line m).health = .test → ∀ f, ((s.rx m.line).octet o).2 = .valid f →
      exec (.octetReceived m.line o) s =
        exec (.testFrameLooped f.tag f.body) (s.setRx m.line ((s.rx m.line).octet o).1)) ∧
    (∀ f rest, ((s.rx .meter).octet o).2 = .valid f → f.src = 0xE0#8 → f.kind = 0x21#8 → f.body = 2#8 :: rest →
      exec (.octetReceived .meter o) s =
        exec (.dispatchRelease f.dest f.tag rest) (s.setRx .meter ((s.rx .meter).octet o).1)) ∧
    (∀ f, ((s.rx .meter).octet o).2 = .valid f → f.src = 0xE0#8 → (f.dest = 0#8 ∨ f.dest = 0xFF#8) → f.kind = 0x21#8 →
      (∀ rest, f.body ≠ 1#8 :: rest ∧ f.body ≠ 2#8 :: rest) → let v := s.setRx .meter ((s.rx .meter).octet o).1
      Ends (.octetReceived .meter o) s { v with site := { v.site with
        rx := v.site.rx.afterValid, errors := min 65535 (s.site.errors + 1) } }) ∧
    (∀ f d, ((s.rx .office).octet o).2 = .valid f → f.src = 0xF0#8 → f.dest = addrOf d →
      exec (.octetReceived .office o) s =
        exec (.passthroughFrame f.dest f.kind f.tag f.body) (s.setRx .office ((s.rx .office).octet o).1)) ∧
    (∀ f, ((s.rx .office).octet o).2 = .valid f → f.src ≠ 0xF0#8 ∨ (f.dest ≠ 0#8 ∧ dispAt f.dest = none) →
      exec (.octetReceived .office o) s = exec (.frameDiscarded .office) (s.setRx .office ((s.rx .office).octet o).1)) ∧
    (∀ f, ((s.rx .meter).octet o).2 = .valid f →
      f.src ≠ 0xE0#8 ∨ (f.dest ≠ 0#8 ∧ f.dest ≠ 0xFF#8) ∨ (f.kind ≠ 0x20#8 ∧ f.kind ≠ 0x21#8) →
      exec (.octetReceived .meter o) s = exec (.frameDiscarded .meter) (s.setRx .meter ((s.rx .meter).octet o).1)) ∧
    (∀ f, ((s.rx .meter).octet o).2 = .valid f → f.src = 0xE0#8 → f.kind = 0x20#8 →
      exec (.octetReceived .meter o) s = exec (.sample f.dest f.tag f.body) (s.setRx .meter ((s.rx .meter).octet o).1)) ∧
    (∀ f rest, ((s.rx .meter).octet o).2 = .valid f → f.src = 0xE0#8 → f.kind = 0x21#8 → f.body = 1#8 :: rest →
      exec (.octetReceived .meter o) s =
        exec (.dispatchActivate f.dest f.tag rest) (s.setRx .meter ((s.rx .meter).octet o).1)) ∧
    (∀ f, ((s.rx .office).octet o).2 = .valid f → f.src = 0xF0#8 → f.dest = 0x00#8 → exec (.octetReceived .office o) s =
      exec (.requestFrame f.tag f.kind f.body) (s.setRx .office ((s.rx .office).octet o).1)) ∧
    (∀ m : StallLine, (s.line m).health ≠ .test → ∀ f, ((s.rx m.line).octet o).2 = .valid f →
      (f.kind = 0x11#8 → exec (.octetReceived m.line o) s =
        exec (.telemetry m f.dest f.src f.tag f.body) (s.setRx m.line ((s.rx m.line).octet o).1)) ∧
      (f.kind = 0x14#8 → exec (.octetReceived m.line o) s =
        exec (.censusReport m f.dest f.src f.tag f.body) (s.setRx m.line ((s.rx m.line).octet o).1)) ∧
      (f.kind = 0x16#8 → exec (.octetReceived m.line o) s =
        exec (.checkReply m f.dest f.src f.tag f.body) (s.setRx m.line ((s.rx m.line).octet o).1)) ∧
      (f.kind ≠ 0x11#8 → f.kind ≠ 0x14#8 → f.kind ≠ 0x16#8 → exec (.octetReceived m.line o) s =
        exec (.uplinkFrame m f.dest f.src f.kind f.tag f.body) (s.setRx m.line ((s.rx m.line).octet o).1))) ∧
    ((l = .meter ∨ l = .office) → (s.rx l).state ≠ .brk → Ends (.frameDiscarded l) s
      (s.setRx l { s.rx l with state := .hunt, buf := [], esc := false, badSince := false }))

/-! ## Frames from the dispensers (R20, R21, R29, R31, R38, R49, R51, R9, R10) -/

/-- A TELEMETRY body is one port record of 12 octets, or two, port 0 first, its fields as 12.4 lays them out; another
length is not well formed. TELEMETRY from the polled dispenser on the GOOD ACTIVE line closes the POLL window, goes
record by record, port 0 first, to the Session Table, and is forwarded (R21): the POLL window of a dispenser is open
while a POLL to it awaits its answer (R23), and a forwarded frame joins the forward queue, or is counted as dropped
when 32 wait, with FORWARD_DROPPED at the first since the mark was clear (R161). From any other source it is discarded,
on the STANDBY line too (R20), and a body not well formed counts an error; the window runs on. -/
def Obligations.TelemetryIsTaken : Prop :=
  (let one (a c : Byte) (f q p : BitVec 16) (n : BitVec 32) : List Byte :=
    a :: (be16 f.toNat ++ be16 q.toNat ++ be16 p.toNat ++ be32 n.toNat ++ [c])
   let told (a c : Byte) (f q p : BitVec 16) (n : BitVec 32) : PortRecord :=
    ⟨a != 0#8, f.toNat, q.toNat, p.toInt, n.toInt, c.toNat⟩
   (∀ a c f q p n, telemetryRecords (one a c f q p n) = some [(0, told a c f q p n)] ∧
      ∀ b e g r o m, telemetryRecords (one a c f q p n ++ one b e g r o m) =
        some [(0, told a c f q p n), (1, told b e g r o m)]) ∧
   ∀ body, body.length ≠ 12 → body.length ≠ 24 → telemetryRecords body = none) ∧
  (∀ (s : State) (d : DispIx) (r q : PortRecord), s.portRecords d [(0, r)] = s.portRecord (stallAt d 0) r ∧
    s.portRecords d [(0, r), (1, q)] = (s.portRecord (stallAt d 0) r).portRecord (stallAt d 1) q) ∧
  (∀ (s : State) (d : DispIx), s.pollOpen d = true ↔ ∃ p, s.window = some (.poll d p)) ∧
  (∀ (s : State) (f : Frame),
    (s.office.forward.length < 32 →
      s.offerForward f = { s with office := { s.office with forward := s.office.forward ++ [f] } }) ∧
    (32 ≤ s.office.forward.length → let w := { s with office := { s.office with
        dropCount := min 65535 (s.office.dropCount + 1), dropMark := true } }
      s.offerForward f = if s.office.dropMark then w else w.raise .forwardDropped .part f.src.toNat)) ∧
  (∀ (s : State) (l : StallLine) (dest src tag : Byte) (body : List Byte), (s.line l).health = .good →
    (s.line l).rx.state ≠ .brk → s.active ≠ l ∨ dispAt src = none → Ends (.telemetry l dest src tag body) s
      (s.modLine l fun x => { x with silence := 0, rx := x.rx.afterValid })) ∧
  ∀ (s : State) (l : StallLine) (dest src tag : Byte) (body : List Byte) (d : DispIx), src = addrOf d →
    s.active = l → (s.line l).health = .good → (s.line l).rx.state ≠ .brk →
    let v := s.modLine l fun x => { x with silence := 0, rx := x.rx.afterValid }
    (s.pollOpen d = true → ∀ rs, telemetryRecords body = some rs → Ends (.telemetry l dest src tag body) s
      ((({ v with window := none }).portRecords d rs).offerForward ⟨dest, src, 0x11#8, tag, body⟩)) ∧
    (s.pollOpen d = true → telemetryRecords body = none → Ends (.telemetry l dest src tag body) s
      (v.modLine l fun x => { x with errors := min 65535 (x.errors + 1) })) ∧
    (s.pollOpen d = false → Ends (.telemetry l dest src tag body) s v)

/-- A port record for an IN_SERVICE stall makes it FRESH at age 0 and stores its plug state, power and fault code, and
moves nothing outside the depot's records; for an OUT_OF_SERVICE stall it is discarded (R38, R39). -/
def Obligations.PortRecordIsStored : Prop :=
  ∀ (s : State) (i : StallIx) (p : PortRecord),
    ((s.stall i).inService = false → s.portRecord i p = s) ∧
    ((s.stall i).inService = true → let u := s.portRecord i p
      KeepsOutside s u ∧ (u.stall i).fresh = .fresh ∧ (u.stall i).age = 0 ∧ (u.stall i).plugged = p.plugged ∧
      (u.stall i).power = p.power ∧ (u.stall i).fault = p.fault ∧ (u.stall i).inService = true ∧
      (p.fault ≠ 0 → (u.stall i).occ = .faulted) ∧ (p.fault = 0 → p.plugged = false → (u.stall i).occ = .vacant) ∧
      (p.fault = 0 → p.plugged = true → (u.stall i).occ.isPlugged = true))

/-- How a port record settles a stall's occupancy (R41 to R46), the associations it ends, with their causes (R47), the
bus it takes, and its events: STALL_FAULT at a new fault code, and STALL_FAULT_CLEARED, from which the stall is settled
as though VACANT; UNPLUG, with the roster index or −1, on leaving a plugged occupancy; UNIDENTIFIED with no number,
GUEST with one not rostered, with BUS_UNKNOWN but for the same GUEST; and with a rostered one the bus kept, taken with
PLUG, left at a FRESH stall with CONFLICT and BUS_CONFLICT, or taken from a silent one with BUS_MOVED. That a stall
settled out of CONFLICT as UNIDENTIFIED or GUEST loses its partner is the model's reading (log 28, DEDUCED). A whole
record is stored (R38, R39), settled, counted (R49 to R51) and handed on (R38 step 5, in one pass by log 11); a stall
session that begins is posted with the setpoint composed, and one that ends has no cap, permission ALLOW, the ALLOCATOR
and setpoint 0, and is posted (R116, R117). -/
def Obligations.OccupancyIsSettled : Prop :=
  (∀ (s : State) (i : StallIx) (p : PortRecord) (old : Stall), old.occ = (s.stall i).occ →
    let x := s.stall i
    let mark (v : State) (j : StallIx) (o : Occupancy) (t : Option StallIx) : State :=
      v.setStall j { v.stall j with occ := o, partner := t }
    let cut (v : State) (b : BusIx) (j : StallIx) : State :=
      let w := v.setBus b { v.bus b with stall := none, carried := (v.bus b).energy.isSome || (v.bus b).carried }
      w.setStall j { w.stall j with bus := none, baseline := none, residue := 0 }
    let clear (v : State) (o : Occupancy) : State :=
      v.setStall i { v.stall i with occ := o, baseline := none, residue := 0, partner := none }
    let leave (v : State) : State :=
      v.setStall i { v.stall i with occ := .vacant, baseline := none, residue := 0, partner := none, fleetNo := none }
    let own (v : State) (b : BusIx) : State :=
      let w := v.setBus b { v.bus b with stall := some i }
      w.setStall i { w.stall i with occ := .session, bus := some b, partner := none }
    let r := s.settle i p old
    (p.fault ≠ 0 → x.occ ≠ .faulted →
      (x.bus = none → r = ⟨(clear s .faulted).raise .stallFault (.stall i) p.fault, [], none⟩) ∧
      ∀ b, x.bus = some b →
        r = ⟨(clear (cut s b i) .faulted).raise .stallFault (.stall i) p.fault, [⟨b, i, .fault⟩], none⟩) ∧
    (p.fault ≠ 0 → x.occ = .faulted → (p.fault = old.fault → r = ⟨s, [], none⟩) ∧
      (p.fault ≠ old.fault → r = ⟨s.raise .stallFault (.stall i) p.fault, [], none⟩)) ∧
    (p.fault = 0 → x.occ = .faulted →
      r = (mark (s.raise .stallFaultCleared (.stall i) old.fault) i .vacant none).settle i p { old with occ := .vacant }) ∧
    (p.fault = 0 → p.plugged = false → (x.occ = .vacant → r = ⟨s, [], none⟩) ∧
      (x.occ = .unidentified ∨ x.occ = .guest ∨ x.occ = .conflict →
        r = ⟨(leave s).raise .unplug (.stall i) (-1), [], none⟩) ∧
      ∀ b, x.occ = .session → x.bus = some b →
        r = ⟨(leave (cut s b i)).raise .unplug (.stall i) b.val, [⟨b, i, .unplug⟩], none⟩) ∧
    (p.fault = 0 → p.plugged = true → x.occ ≠ .faulted →
      (p.fleet = 0 → (x.occ = .session → r = ⟨s, [], none⟩) ∧
        (x.occ ≠ .session → r = ⟨mark s i .unidentified none, [], none⟩)) ∧
      (p.fleet ≠ 0 → s.rosterIx p.fleet = none →
        (x.bus = none → let v := mark s i .guest none
          (x.occ = .guest → old.fleetNo = some p.fleet → r = ⟨v, [], none⟩) ∧
          (x.occ ≠ .guest ∨ old.fleetNo ≠ some p.fleet → r = ⟨v.raise .busUnknown (.stall i) 0, [], none⟩)) ∧
        ∀ b, x.occ = .session → x.bus = some b →
          r = ⟨(mark (cut s b i) i .guest none).raise .busUnknown (.stall i) 0, [⟨b, i, .identity⟩], none⟩) ∧
      ∀ b, p.fleet ≠ 0 → s.rosterIx p.fleet = some b →
        (x.occ = .session → x.bus = some b → r = ⟨s, [], none⟩) ∧
        (x.occ ≠ .session ∨ x.bus ≠ some b → ∀ v e,
          ((x.bus = none ∧ v = s ∧ e = []) ∨ ∃ o, x.bus = some o ∧ v = cut s o i ∧ e = [⟨o, i, .identity⟩]) →
          ((v.bus b).stall = none → r = ⟨(own v b).raise .plug (.stall i) b.val, e, some b⟩) ∧
          ∀ t, (v.bus b).stall = some t →
            ((v.stall t).fresh = .fresh → let w := mark v i .conflict (some t)
              (((v.stall i).occ = .conflict ∧ (v.stall i).partner = some t) → r = ⟨w, e, none⟩) ∧
              (¬ ((v.stall i).occ = .conflict ∧ (v.stall i).partner = some t) →
                r = ⟨w.raise .busConflict (.stall i) t.val, e, none⟩)) ∧
            ((v.stall t).fresh ≠ .fresh → let c := cut v b t
              let w := c.setStall t { c.stall t with occ := .unidentified }
              r = ⟨(own w b).raise .busMoved (.stall i) t.val, e ++ [⟨b, t, .displaced⟩], some b⟩)))) ∧
  (∀ (s : State) (i : StallIx) (p : PortRecord), (s.stall i).inService = true →
    let x := s.stall i
    let v := s.setStall i { x with fresh := .fresh, age := 0 }
    let w := if x.fresh = .stale ∨ x.fresh = .unreachable then v.raise .stallFresh (.stall i) x.age else v
    let stored := w.setStall i { w.stall i with
      plugged := p.plugged, fleetNo := if p.fleet = 0 then none else some p.fleet, power := p.power, fault := p.fault }
    let r := stored.settle i p x
    let u := r.state.estimateStep i p r.took.isSome
    let moved (b : BusIx) : Bool := r.took == some b || (u.bus b).energy != (r.state.bus b).energy
    s.portRecord i p = u.handOff {
      stall := i
      ended := r.ended
      evaluate := (u.stall i).bus.toList.filter moved
      touched := (u.stall i).bus.toList.filter fun b => moved b || x.fresh != .fresh
      began := !x.occ.isPlugged && (u.stall i).occ.isPlugged
      unplugged := x.occ.isPlugged && !(u.stall i).occ.isPlugged }) ∧
  ∀ (s : State) (i : StallIx) (p : PortRecord), (s.stall i).inService = true →
    let u := s.portRecord i p
    let posted := (u.stall i).lastPosted = s.pathSecond ∧ ∃ e ∈ u.setQ, e.stall = i ∧ e.inFlight = false
    ((s.stall i).occ.isPlugged = false → (u.stall i).occ.isPlugged = true →
      (u.stall i).sp = (u.stall i).composed ∧ posted) ∧
    ((s.stall i).occ.isPlugged = true → (u.stall i).occ.isPlugged = false → (u.stall i).cap = none ∧
      (u.stall i).lend = true ∧ (u.stall i).controller = .allocator ∧ (u.stall i).sp = ⟨0, 0, 0⟩ ∧ posted)

/-- The estimate of a bus in SESSION: a SoC sets it to the rounded share of the capacity, and a counter step within the
capacity moves it by whole hundreds of Wh, toward zero, with the rest kept as residue, clamped to 0 and the capacity
with residue 0 there; an UNKNOWN one stays so, and a greater step makes it UNKNOWN with COUNTER_JUMP; the baseline
becomes the record's counter (R48, R49, R51). The first record of an association without a SoC makes a carried estimate
UNKNOWN and keeps another (R50), so also where the bus is taken from a silent stall, which is left UNIDENTIFIED, and
where the stall gives up another bus, whose estimate is carried (R43, R45, R47). That COUNTER_JUMP is raised also where
the estimate was UNKNOWN, and that the share a SoC gives is rounded and held to the capacity, is the model's reading
(log 17, DEDUCED). A record that leaves a plugged stall with no bus, in UNIDENTIFIED, GUEST or CONFLICT, moves only the
counter baseline there, to the record's counter (R43, R51), with residue 0 by the model's reading (log 16, DEDUCED). -/
def Obligations.PortRecordMovesTheEstimate : Prop :=
  (∀ (s : State) (i : StallIx) (b : BusIx) (p : PortRecord), (s.stall i).inService = true →
    (s.stall i).occ = .session → (s.stall i).bus = some b → (s.bus b).stall = some i → p.plugged = true →
    p.fault = 0 → (p.fleet = 0 ∨ s.rosterIx p.fleet = some b) →
    let u := s.portRecord i p
    let cap := (s.busEntry b).capacity
    (u.stall i).occ = .session ∧ (u.stall i).bus = some b ∧ (u.stall i).baseline = some p.counter ∧
    (p.soc ≤ 1000 → (u.bus b).energy = some (min cap ((p.soc * cap + 500) / 1000)) ∧ (u.bus b).carried = false ∧
      (u.stall i).residue = 0) ∧
    (1000 < p.soc → ∀ e c, (s.bus b).energy = some e → (s.stall i).baseline = some c →
      let delta := p.counter - c + (s.stall i).residue
      let moved := (e : Int) + delta.tdiv 100
      ((p.counter - c).natAbs ≤ 100 * cap → 0 ≤ moved → moved ≤ cap → (u.bus b).energy = some moved.toNat ∧
        (u.stall i).residue = delta - 100 * delta.tdiv 100) ∧
      ((p.counter - c).natAbs ≤ 100 * cap → moved < 0 → (u.bus b).energy = some 0 ∧ (u.stall i).residue = 0) ∧
      ((p.counter - c).natAbs ≤ 100 * cap → cap < moved → (u.bus b).energy = some cap ∧ (u.stall i).residue = 0) ∧
      (100 * cap < (p.counter - c).natAbs → (u.bus b).energy = none ∧ (u.stall i).residue = 0)) ∧
    (1000 < p.soc → (s.bus b).energy = none → (u.bus b).energy = none ∧ (u.stall i).residue = 0)) ∧
  (∀ (s : State) (i : StallIx) (b : BusIx) (p : PortRecord), (s.stall i).inService = true →
    (s.stall i).bus ≠ some b → p.plugged = true → p.fault = 0 → p.fleet ≠ 0 → s.rosterIx p.fleet = some b →
    (∀ t, (s.bus b).stall = some t → t ≠ i ∧ (s.stall t).fresh ≠ .fresh) →
    let u := s.portRecord i p
    let cap := (s.busEntry b).capacity
    (u.stall i).occ = .session ∧ (u.stall i).bus = some b ∧ (u.bus b).stall = some i ∧
    (u.stall i).baseline = some p.counter ∧ (u.stall i).residue = 0 ∧
    (p.soc ≤ 1000 → (u.bus b).energy = some (min cap ((p.soc * cap + 500) / 1000)) ∧ (u.bus b).carried = false) ∧
    (1000 < p.soc → (u.bus b).carried = false ∧
      (u.bus b).energy = if (s.bus b).carried = true ∨ (s.bus b).stall ≠ none then none else (s.bus b).energy) ∧
    (∀ t, (s.bus b).stall = some t → (u.stall t).occ = .unidentified ∧ (u.stall t).bus = none ∧
      (u.stall t).baseline = none ∧ (u.stall t).residue = 0) ∧
    ∀ o, (s.stall i).bus = some o → (u.bus o).stall = none ∧ (u.bus o).energy = (s.bus o).energy ∧
      (u.bus o).carried = ((s.bus o).energy.isSome || (s.bus o).carried)) ∧
  (∀ (s : State) (i : StallIx) (p : PortRecord), (s.stall i).inService = true → p.plugged = true → p.fault = 0 →
    let u := s.portRecord i p
    (u.stall i).bus = none → (u.stall i).baseline = some p.counter ∧ (u.stall i).residue = 0) ∧
  (∀ (s : State) (i : StallIx) (p : PortRecord) (first : Bool), (s.stall i).bus = none →
    s.estimateStep i p first = if (s.stall i).occ.isPlugged then
      s.setStall i { s.stall i with baseline := some p.counter, residue := 0 } else s) ∧
  ∀ (s : State) (i : StallIx) (b : BusIx) (p : PortRecord), (s.stall i).bus = some b →
    let put (v : State) (e : Option Nat) (c : Bool) (r : Int) : State :=
      let w := v.setBus b ⟨e, c, (v.bus b).stall, (v.bus b).lendable⟩
      w.setStall i { w.stall i with baseline := some p.counter, residue := r }
    let cap := (s.busEntry b).capacity
    (∀ first, p.soc ≤ 1000 → s.estimateStep i p first = put s (some (min cap ((p.soc * cap + 500) / 1000))) false 0) ∧
    (1000 < p.soc → s.estimateStep i p true =
      put s (if (s.bus b).carried then none else (s.bus b).energy) false 0) ∧
    ∀ c, 1000 < p.soc → (s.stall i).baseline = some c →
      (100 * cap < (p.counter - c).natAbs → s.estimateStep i p false =
        (put s none (s.bus b).carried 0).raise .counterJump (.stall i) b.val) ∧
      ((p.counter - c).natAbs ≤ 100 * cap → (s.bus b).energy = none →
        s.estimateStep i p false = put s none (s.bus b).carried 0) ∧
      ((p.counter - c).natAbs ≤ 100 * cap → ∀ e, (s.bus b).energy = some e →
        let delta := p.counter - c + (s.stall i).residue
        let moved := (e : Int) + delta.tdiv 100
        let held := max 0 (min (cap : Int) moved)
        s.estimateStep i p false = put s (some held.toNat) (s.bus b).carried
          (if held = moved then delta - 100 * delta.tdiv 100 else 0))

/-- The end of a CENSUS window is a miss: the first leaves the presence and the probe where they are; the second makes
the address ABSENT, with its stalls out of service, DISPENSER_ABSENT where it was not ABSENT before, and the probe at
the next listed address or the census ended with CENSUS_DONE (R5, R10, R11). The end of a POLL window only closes it
(R23). The fields of a CENSUS REPORT's body, as 12.4 lays them out. A valid one for the open probe makes its address
PRESENT with the clamped values as its last report, closes the window, restarts both silence timers where none was
PRESENT (R30), raises DISPENSER_MISMATCH with the code of the first difference from the live entry, and moves the probe
on (R9); one with a port count outside 1 to 2, from another address, with no window or on the STANDBY line (R20),
changes nothing; an unlisted address raises DISPENSER_UNLISTED once (R10). That it does so also while the census is
IDLE is the model's choice (log 22, DEDUCED). That the values are compared after their clamps is its reading (log 18,
DEDUCED); a flag octet above 1 is read as a free value (log 8). -/
def Obligations.CensusReportsAndWindows : Prop :=
  (∀ (s : State) (d : DispIx),
    (∀ before, s.window = some (.poll d before) → Ends .pollWindowExpiry s { s with window := none }) ∧
    (s.window = some (.census d) → (s.pres d).miss = 0 → Ends .censusWindowExpiry s { s with
      window := none
      census := { s.census with outstanding := false }
      presence := s.presence.set d.val { s.pres d with miss := 1 } }) ∧
    (s.window = some (.census d) → (s.pres d).miss ≠ 0 → ∃ u, Ends .censusWindowExpiry s u ∧
      u.window = none ∧ u.pres d = { s.pres d with presence := .absent, miss := 0 } ∧
      (∀ c, c ≠ d → u.pres c = s.pres c) ∧ u.plant = s.plant ∧ u.site = s.site ∧ u.clock = s.clock ∧
      u.office = s.office ∧ u.lineA.health = s.lineA.health ∧ u.lineB.health = s.lineB.health ∧
      let gone := ({ s with
        window := none
        census := { s.census with outstanding := false }
        presence := s.presence.set d.val { s.pres d with presence := .absent, miss := 0 } }).plantChanged d
      ((s.pres d).presence = .present ∨ (s.pres d).presence = .unprobed →
        ProbeAdvances (gone.raise .dispenserAbsent (.dispenser d) 0) u) ∧
      ((s.pres d).presence = .absent ∨ (s.pres d).presence = .unlisted → ProbeAdvances gone u))) ∧
  (∀ a c p q g, ∃ can : Bool, (g = 0#8 → can = false) ∧ (g = 1#8 → can = true) ∧
    reportOf (a :: (be16 c ++ be16 p ++ be16 q ++ [g])) = some ⟨a.toNat, c % 65536, p % 65536, q % 65536, can⟩) ∧
  (∀ body, body.length ≠ 8 → reportOf body = none) ∧
  (∀ (s : State) (l : StallLine) (dest src tag : Byte) (body : List Byte), (s.line l).health = .good →
    (s.line l).rx.state ≠ .brk → s.active ≠ l ∨ dispAt src = none → Ends (.censusReport l dest src tag body) s
      (s.modLine l fun x => { x with silence := 0, rx := x.rx.afterValid })) ∧
  ∀ (s : State) (l : StallLine) (dest src tag : Byte) (body : List Byte) (d : DispIx), src = addrOf d →
    s.active = l → (s.line l).health = .good → (s.line l).rx.state ≠ .brk →
    let v := s.modLine l fun x => { x with silence := 0, rx := x.rx.afterValid }
    (s.window = some (.census d) → s.census.probe = some d → (s.pres d).presence ≠ Presence.unlisted → ∀ r,
      reportOf body = some r → (r.ports = 1 ∨ r.ports = 2) → ∃ u, Ends (.censusReport l dest src tag body) s u ∧
        u.window = none ∧ u.pres d = ⟨.present, 0, some ⟨r.ports, min 400 r.cabinet, min 250 r.port0,
          min 250 r.port1, r.discharge⟩⟩ ∧ (∀ c, c ≠ d → u.pres c = s.pres c) ∧ u.plant = s.plant ∧
        u.site = s.site ∧ u.clock = s.clock ∧ u.office = s.office ∧
        (∀ c : DispIx, d < c → (s.pres c).presence ≠ .unlisted → u.census.running = s.census.running ∧
          ∃ a, u.census.probe = some a ∧ d < a ∧ a ≤ c) ∧
        let m : State := { v with
          window := none
          census := { v.census with outstanding := false }
          presence := v.presence.set d.val ⟨.present, 0, some ⟨r.ports, min 400 r.cabinet, min 250 r.port0,
            min 250 r.port1, r.discharge⟩⟩ }
        let heard : State := if s.presentCount = 0 then { m with
          lineA := { m.lineA with silence := 0 }, lineB := { m.lineB with silence := 0 } } else m
        let e := s.plant.live.dispensers[d.val]
        let code : Option Int := if r.ports ≠ e.ports then some 4 else if min 400 r.cabinet ≠ e.cabinet then some 1
          else if min 250 r.port0 ≠ e.port0 then some 2
          else if e.ports = 2 ∧ r.ports = 2 ∧ min 250 r.port1 ≠ e.port1 then some 3
          else if r.discharge ≠ e.discharge then some 5 else none
        (code = none → ProbeAdvances (heard.plantChanged d) u) ∧
        ∀ n, code = some n → ProbeAdvances ((heard.plantChanged d).raise .dispenserMismatch (.dispenser d) n) u) ∧
    ((s.pres d).presence ≠ Presence.unlisted → (s.window ≠ some (.census d) ∨ s.census.probe ≠ some d ∨
        ∀ r, reportOf body = some r → r.ports ≠ 1 ∧ r.ports ≠ 2) → Ends (.censusReport l dest src tag body) s v) ∧
    ((s.pres d).presence = .unlisted → s.census.unlistedSeen[d.val] = true →
      Ends (.censusReport l dest src tag body) s v) ∧
    ((s.pres d).presence = .unlisted → s.census.unlistedSeen[d.val] = false →
      Ends (.censusReport l dest src tag body) s { (v.raise .dispenserUnlisted (.dispenser d) 0) with
        census := { s.census with unlistedSeen := s.census.unlistedSeen.set d.val true } })

/-- Effective ratings: the lower of table and report while PRESENT, port by port below the lower count, and 0 otherwise
(R3). The service status of a stall (R4); when it is re-derived, every changed stall is acted on in ascending number:
one that leaves service ends its association and is VACANT with freshness NONE, its stall session handed on, and one
that enters is VACANT with freshness NONE (R5; what stands besides: log 35). After a change at a dispenser the buses at
its stalls are re-evaluated and its discharge limits checked (R126, R131). What a stall's session hands on, in the
order of R38 step 5: the ended associations and the evaluations to the Readiness Tracker, the ends of discharges and
the re-evaluations to the Discharge Coordinator (R127), the changes of protection and the session to the Reserve
Controller (R83, R149), and the session to the Setpoint Path, which posts the stall (R116, R117). That several of one
kind go in one pass, the associations in the order they ended and the buses re-evaluated in that order with the bus
taken or touched last, and that a change at a dispenser goes by its ports, lending before limits, is log 11, the
model's choice. -/
def Obligations.RatingsServiceAndHandOffs : Prop :=
  (∀ (s : State) (d : DispIx), let p := s.pres d
    let e := s.plant.live.dispensers[d.val]
    (p.presence ≠ .present ∨ p.report = none → s.eff d = ⟨0, 0, 0, 0, false⟩) ∧
    ∀ r, p.presence = .present → p.report = some r → let n := min e.ports r.ports
      s.eff d = ⟨n, min e.cabinet r.cabinet, if 0 < n then min e.port0 r.port0 else 0,
        if 1 < n then min e.port1 r.port1 else 0, e.discharge && r.discharge⟩) ∧
  (∀ (s : State) (i : StallIx), let e := s.eff (dispOf i)
    let panel := s.plant.live.dispensers[(dispOf i).val].panel
    (dispOf i).val = i.val / 2 ∧ portOf i = i.val % 2 ∧ s.effPort i = (if portOf i = 0 then e.port0 else e.port1) ∧
    s.panelOf i = panel ∧ (∀ p : PanelIx, s.panelLimit p =
      if s.plant.live.panels[p.val].inService then s.plant.live.panels[p.val].limit else 0) ∧
    (s.serviceOf i = true ↔ s.configured = true ∧ (s.pres (dispOf i)).presence = .present ∧
      (∃ p, panel = some p ∧ s.plant.live.panels[p.val].inService = true) ∧ portOf i < e.ports)) ∧
  (∀ s : State, ∃ v, v = { s with stalls := v.stalls } ∧
    (∀ i, v.stall i = { s.stall i with inService := s.serviceOf i }) ∧
    s.reService = (allStalls.filter fun i => (s.stall i).inService != s.serviceOf i).foldl
      (fun t i => if (s.stall i).inService then t.leaveService i else t.enterService i) v) ∧
  (∀ (s : State) (i : StallIx), let x := s.stall i
    let bare : Stall := { x with occ := .vacant, fresh := .none, age := 0, bus := none, baseline := none, residue := 0
                                 partner := none, fleetNo := none }
    s.enterService i = s.setStall i { x with occ := .vacant, fresh := .none, age := 0 } ∧
    ∀ (v : State) (ends : List Ended),
      ((x.bus = none ∧ v = s.setStall i bare ∧ ends = []) ∨ ∃ b, x.bus = some b ∧ ends = [⟨b, i, .outOfService⟩] ∧
        v = (s.setBus b { s.bus b with
          stall := none, carried := (s.bus b).energy.isSome || (s.bus b).carried }).setStall i bare) →
      (x.occ.isPlugged = false → s.leaveService i = v) ∧
      (x.occ.isPlugged = true → s.leaveService i = v.handOff ⟨i, ends, [], [], false, true⟩)) ∧
  (∀ (s : State) (d : DispIx), let w := s.reService
    s.plantChanged d = (([stallAt d 0, stallAt d 1].filterMap fun i => (w.stall i).bus).foldl State.reeval w).checkLimits
      [d]) ∧
  ∀ (s : State) (h : Handed),
    let t := h.evaluate.foldl State.evalBus (h.ended.foldl (fun v e => v.assocEnded e.bus e.stall e.cause) s)
    let lent (v : State) : State := (h.ended.map (·.bus) ++ h.touched).foldl State.reeval
      ((h.ended.filter fun e => e.cause == .identity || e.cause == .displaced || e.cause == .roster).foldl
        (fun v e => v.dropDischarge e.stall) (if h.unplugged then v.dropDischarge h.stall else v))
    let r := trackerHandsOn t lent
    let post (v : State) (x : Stall) : State :=
      { v.setStall h.stall { x with lastPosted := v.pathSecond } with setQ := postEntry v.setQ h.stall false }
    (h.unplugged = false → h.began = false → s.handOff h = r) ∧
    (h.unplugged = true → h.began = false → let v := r.reserveSessionEnds h.stall
      s.handOff h = post v { v.stall h.stall with cap := none, lend := true, controller := .allocator, sp := ⟨0, 0, 0⟩ }) ∧
    (h.unplugged = false → h.began = true → let v := r.reserveSessionBegins h.stall
      s.handOff h = post v { v.stall h.stall with sp := (v.stall h.stall).composed })

/-- A CHECK REPLY from the checked address on the GOOD STANDBY line answers the CHECK (R29). Any other frame from a
dispenser to the supervisor on the GOOD ACTIVE line joins the forward queue, or is counted as dropped when 32 wait,
with FORWARD_DROPPED once (R20, R161); one to any other destination is discarded, and so is one of either sort whose
source is no dispenser. Each restarts the silence timer. -/
def Obligations.RepliesAndUplinks : Prop :=
  ∀ (s : State) (l : StallLine) (dest src kind tag : Byte) (body : List Byte),
    (s.line l).health = .good → (s.line l).rx.state ≠ .brk →
    let v := s.modLine l fun x => { x with silence := 0, rx := x.rx.afterValid }
    let f : Frame := ⟨0xF0#8, src, kind, tag, body⟩
    (src = 0x00#8 ∨ 24 < src.toNat → Ends (.checkReply l dest src tag body) s v ∧
      (kind ≠ 0x11#8 → kind ≠ 0x14#8 → kind ≠ 0x16#8 → Ends (.uplinkFrame l dest src kind tag body) s v)) ∧
    ∀ d : DispIx, src = addrOf d →
    (s.active ≠ l → (s.line l).checkOut = some d → Ends (.checkReply l dest src tag body) s
      (v.modLine l fun x => { x with unanswered := 0, checkOut := none })) ∧
    (s.active ≠ l → (s.line l).checkOut ≠ some d → Ends (.checkReply l dest src tag body) s v) ∧
    (s.active = l → Ends (.checkReply l dest src tag body) s v) ∧
    (s.active = l → kind ≠ 0x11#8 → kind ≠ 0x14#8 → kind ≠ 0x16#8 → s.office.forward.length < 32 →
      Ends (.uplinkFrame l 0xF0#8 src kind tag body) s
        { v with office := { s.office with forward := s.office.forward ++ [f] } }) ∧
    (s.active = l → kind ≠ 0x11#8 → kind ≠ 0x14#8 → kind ≠ 0x16#8 → 32 ≤ s.office.forward.length →
      let w := { v with office := { s.office with
        dropCount := min 65535 (s.office.dropCount + 1), dropMark := true } }
      Ends (.uplinkFrame l 0xF0#8 src kind tag body) s
        (if s.office.dropMark then w else w.raise .forwardDropped .part src.toNat)) ∧
    (s.active = l → kind ≠ 0x11#8 → kind ≠ 0x14#8 → kind ≠ 0x16#8 → dest ≠ 0xF0#8 →
      Ends (.uplinkFrame l dest src kind tag body) s v) ∧
    (s.active ≠ l → kind ≠ 0x16#8 → Ends (.uplinkFrame l dest src kind tag body) s v)

/-- Every valid frame on a FAILED line counts toward qualification, TELEMETRY, CENSUS REPORT, CHECK REPLY or any other,
from any source and in either role, and restarts the silence timer. The third makes the line GOOD, with LINE_RESTORED,
and ACTIVE by the roles' swap where it is the STANDBY line, the ACTIVE line is FAILED and auto line switch is on (R31,
R32). What is done with the frame then goes by the line's role (R20): on the ACTIVE line TELEMETRY from the polled
dispenser is taken (R21), a report for the open probe makes its address PRESENT (R9, R10), a CHECK REPLY is discarded,
and another kind to the supervisor is forwarded (R161); on a STANDBY line a CHECK REPLY from the checked address
answers the CHECK (R29), and nothing else is taken. That the roles swap before the frame goes by role is the model's
reading (log 27, DEDUCED), and that an unlisted address is reported also while the census is IDLE is log 22
(DEDUCED). -/
def Obligations.FailedLineQualifies : Prop :=
  ∀ (s : State) (l : StallLine), (s.line l).health = .failed → (s.line l).rx.state ≠ .brk →
    let v := s.modLine l fun x => { x with silence := 0, rx := x.rx.afterValid }
    let w := (v.modLine l fun x => { x with health := .good, qual := 0, unanswered := 0 }).raise .lineRestored
      (.line l.line) 0
    let u : State := if (s.line l).qual < 2 then v.modLine l fun x => { x with qual := x.qual + 1 }
      else if s.active ≠ l ∧ (s.line s.active).health = .failed ∧ s.policy.live.params.autoSwitch = true then
        w.swapRoles 1
      else w
    ∀ (dest src kind tag : Byte) (body : List Byte),
      (dispAt src = none → Ends (.telemetry l dest src tag body) s u ∧ Ends (.censusReport l dest src tag body) s u ∧
        Ends (.checkReply l dest src tag body) s u ∧ Ends (.uplinkFrame l dest src kind tag body) s u) ∧
      ∀ d : DispIx, src = addrOf d →
        (u.active ≠ l → Ends (.telemetry l dest src tag body) s u ∧ Ends (.censusReport l dest src tag body) s u ∧
          (kind ≠ 0x16#8 → Ends (.uplinkFrame l dest src kind tag body) s u) ∧
          ((u.line l).checkOut ≠ some d → Ends (.checkReply l dest src tag body) s u) ∧
          ((u.line l).checkOut = some d → Ends (.checkReply l dest src tag body) s
            (u.modLine l fun x => { x with unanswered := 0, checkOut := none }))) ∧
        (u.active = l → Ends (.checkReply l dest src tag body) s u ∧
          (u.pollOpen d = true → ∀ rs, telemetryRecords body = some rs → Ends (.telemetry l dest src tag body) s
            ((({ u with window := none }).portRecords d rs).offerForward ⟨dest, src, 0x11#8, tag, body⟩)) ∧
          (u.pollOpen d = true → telemetryRecords body = none → Ends (.telemetry l dest src tag body) s
            (u.modLine l fun x => { x with errors := min 65535 (x.errors + 1) })) ∧
          (u.pollOpen d = false → Ends (.telemetry l dest src tag body) s u) ∧
          (u.window = some (.census d) → u.census.probe = some d → (u.pres d).presence ≠ Presence.unlisted → ∀ r,
            reportOf body = some r → (r.ports = 1 ∨ r.ports = 2) → ∃ t, Ends (.censusReport l dest src tag body) s t ∧
              t.window = none ∧ t.pres d = ⟨.present, 0, some ⟨r.ports, min 400 r.cabinet, min 250 r.port0,
                min 250 r.port1, r.discharge⟩⟩ ∧ (∀ c, c ≠ d → t.pres c = u.pres c) ∧
              (∀ m, (t.line m).health = (u.line m).health ∧ (t.line m).qual = (u.line m).qual) ∧ t.active = u.active) ∧
          ((u.pres d).presence ≠ Presence.unlisted → (u.window ≠ some (.census d) ∨ u.census.probe ≠ some d ∨
            ∀ r, reportOf body = some r → r.ports ≠ 1 ∧ r.ports ≠ 2) → Ends (.censusReport l dest src tag body) s u) ∧
          ((u.pres d).presence = .unlisted → u.census.unlistedSeen[d.val] = true →
            Ends (.censusReport l dest src tag body) s u) ∧
          ((u.pres d).presence = .unlisted → u.census.unlistedSeen[d.val] = false →
            Ends (.censusReport l dest src tag body) s { (u.raise .dispenserUnlisted (.dispenser d) 0) with
              census := { u.census with unlistedSeen := u.census.unlistedSeen.set d.val true } }) ∧
          (kind ≠ 0x11#8 → kind ≠ 0x14#8 → kind ≠ 0x16#8 →
            (dest = 0xF0#8 → Ends (.uplinkFrame l dest src kind tag body) s
              (u.offerForward ⟨dest, src, kind, tag, body⟩)) ∧
            (dest ≠ 0xF0#8 → Ends (.uplinkFrame l dest src kind tag body) s u)))

/-! ## The stall lines' transmissions and timers (02) -/

/-- The ends of the stall lines' transmissions, each of which leaves the transmitter free: a POLL and a standing CENSUS
open their windows (R23) and are counted as sent (R8), a SET entry that is still in flight leaves its queue (R27), a
pass-through frame leaves its (R28, by log 19), a FILL leaves nothing (R25), and a CHECK stands outstanding, an earlier
one without its reply counted, to a line fault, cause 3, at the third, where the count stays (R29): a GOOD line becomes
FAILED, with LINE_SWITCH, parameter 0, where the other is FAILED too, and a FAILED line's qualification count returns
to 0 (R30). The CENSUS frame of a discarded probe opens no window: the model's choice (log 10). -/
def Obligations.StallTransmissionsEnd : Prop :=
  ∀ s : State, let free := s.modLine s.active fun x => { x with tx := none }
    (∀ d before, s.activeTx = some (.poll d before) →
      Ends .pollSent s { free with window := some (.poll d before), probed := false }) ∧
    (∀ d, s.activeTx = some (.census d true) →
      Ends .censusSent s { free with window := some (.census d), probed := true }) ∧
    (∀ d, s.activeTx = some (.census d false) → Ends .censusSent s { free with probed := true }) ∧
    (∀ i a b c, s.activeTx = some (.set i a b c) → Ends .setSent s
      { free with setQ := s.setQ.filter fun e => !(e.stall == i && e.inFlight) }) ∧
    (∀ f, s.activeTx = some (.pass f) → Ends .passthroughSent s { free with passQ := s.passQ.drop 1 }) ∧
    (∀ l n, (s.line l).tx = some (.fill n) → Ends (.fillSent l) s (s.modLine l fun x => { x with tx := none })) ∧
    (∀ l d, (s.line l).tx = some (.check d) → (s.line l).unanswered < 2 → Ends (.checkSent l) s
      (s.modLine l fun x => { x with
        tx := none
        checkOut := some d
        unanswered := if x.checkOut.isSome then x.unanswered + 1 else x.unanswered })) ∧
    (∀ l d e, (s.line l).tx = some (.check d) → (s.line l).unanswered = 2 → (s.line l).checkOut = some e →
      s.active ≠ l →
      let failed := (s.modLine l fun x => { x with
        tx := none, checkOut := some d, unanswered := 3, health := .failed, qual := 0 }).raise .lineFailed (.line l.line) 3
      ((s.line l).health = .good → (s.line l.other).health ≠ .failed → Ends (.checkSent l) s failed) ∧
      ((s.line l).health = .good → (s.line l.other).health = .failed →
        Ends (.checkSent l) s (failed.raise .lineSwitch (.line s.active.line) 0)) ∧
      ((s.line l).health = .failed → Ends (.checkSent l) s
        (s.modLine l fun x => { x with tx := none, checkOut := some d, unanswered := 3, qual := 0 }))) ∧
    (∀ l d, (s.line l).tx = some (.check d) →
      (s.line l).unanswered = 3 ∨ ((s.line l).unanswered = 2 ∧ (s.line l).checkOut = none) →
      Ends (.checkSent l) s (s.modLine l fun x => { x with tx := none, checkOut := some d }))

/-- A line outside TEST that has sent nothing for 100 ms sends a FILL with the round count modulo 256, unless it has
something else to start; in TEST, or while it is sending, nothing comes of it (R25). A STANDBY line outside TEST whose
CHECK timer expires with a dispenser PRESENT has a CHECK due, which goes to the next PRESENT address of its rotation at
once when the line is free (R29); on any other line the expiry changes nothing, with none PRESENT by the model's choice
(log 32). -/
def Obligations.QuietLinesSendFillAndCheck : Prop :=
  ∀ (s : State) (l : StallLine),
    ((s.line l).tx = none → (s.line l).health ≠ .test → (s.finish.line l).tx = none →
      Ends (.idleTimeout l) s (s.modLine l fun x => { x with tx := some (.fill (s.alloc.roundCount % 256)) })) ∧
    ((s.line l).tx ≠ none ∨ (s.line l).health = .test ∨ (s.finish.line l).tx ≠ none → Ends (.idleTimeout l) s s) ∧
    ((s.line l).tx = none → (s.line l).health ≠ .test → (s.configured = false ∨ s.active ≠ l) →
      (s.line s.standby).checkDue = false → (s.finish.line l).tx = none) ∧
    (s.active ≠ l → (s.line l).health ≠ .test → 0 < s.presentCount →
      Ends (.checkTimerExpiry l) s (s.modLine l fun x => { x with checkDue := true })) ∧
    (s.active ≠ l → (s.line l).health ≠ .test → (s.line l).tx = none → ∀ d,
      s.nextPresent (s.line l).rotation = some d → ∃ t, exec (.checkTimerExpiry l) s = .next t ∧
      t.line l = { s.line l with tx := some (.check d), rotation := some d, checkDue := false }) ∧
    (s.active = l ∨ (s.line l).health = .test ∨ s.presentCount = 0 → Ends (.checkTimerExpiry l) s s)

/-! ## Stalls, samples, lending and dispatch (03, 04, 08, 09) -/

/-- A FRESH stall whose age reaches 5 s becomes STALE with STALL_STALE, a STALE one whose age reaches 30 s UNREACHABLE
with STALL_UNREACHABLE, each event with the stall as subject and parameter 0, and then the lendable energy of a bus at
the stall is re-evaluated; occupancy and association stand; a stall of another freshness is not touched (R40). -/
def Obligations.AgesMoveFreshness : Prop :=
  ∀ (s : State) (i : StallIx),
    let moved (n : Nat) (f : Freshness) (k : EventKind) : State :=
      (s.modStall i fun x => { x with fresh := f, age := n }).raise k (.stall i) 0
    let follows (v u : State) : Prop :=
      ((s.stall i).bus = none → u = v) ∧ (∀ b, (s.stall i).bus = some b → u = v.reeval b) ∧ KeepsOutside v u ∧
        ∀ j, SameSession (v.stall j) (u.stall j)
    ((s.stall i).fresh = .fresh →
      ∃ u, Ends (.staleAgeReached i) s u ∧ follows (moved 5 .stale .stallStale) u) ∧
    ((s.stall i).fresh = .stale →
      ∃ u, Ends (.unreachableAgeReached i) s u ∧ follows (moved 30 .unreachable .stallUnreachable) u) ∧
    ((s.stall i).fresh ≠ .fresh → Ends (.staleAgeReached i) s s) ∧
    ((s.stall i).fresh ≠ .stale → Ends (.unreachableAgeReached i) s s)

/-- The frequency condition: while NORMAL a sample below the trip threshold counts, any other clears the count, and the
trip count reached makes it LOW with both counts 0 and FREQUENCY_TRIP (R61); LOW returns to NORMAL likewise at or above
the restore threshold (R62). Each sample taken is qualified so, a signal goes to the Reserve Controller, and site
storage is examined and evaluated (R57): its inhibition (R132), its shave target, start and spreads (R133, R134), the
holdback test (R135). A STORAGE discharge that ends in SHAVING repeats that test: failing, it ends them all, to IDLE
with STORAGE_LIMIT, and passing, it spreads again; in any other state it is nothing (R134, R135). That a spread from
IDLE which places nothing keeps its target on record is the model's reading (log 14). -/
def Obligations.FrequencyQualifies : Prop :=
  (∀ (s : State) (x : Sample), let r := (s.storeSample x).qualify x.freq
    s.takeSample x = (r.1.signal r.2).examineStorage.storageSample) ∧
  ∀ (s : State) (f : Nat), let g := s.grid.live.freq
    (s.site.low = false → g.trip ≤ f →
      s.qualify f = ({ s with site := { s.site with trip := 0 } }, .quiet)) ∧
    (s.site.low = false → f < g.trip → s.site.trip + 1 < g.tripCount →
      s.qualify f = ({ s with site := { s.site with trip := s.site.trip + 1 } }, .quiet)) ∧
    (s.site.low = false → f < g.trip → g.tripCount ≤ s.site.trip + 1 →
      s.qualify f = (({ s with site := { s.site with low := true, trip := 0, restore := 0 } }).raise .frequencyTrip
        .part ((f : Int) - g.trip), .trip)) ∧
    (s.site.low = true → f < g.restore →
      s.qualify f = ({ s with site := { s.site with restore := 0 } }, .quiet)) ∧
    (s.site.low = true → g.restore ≤ f → s.site.restore + 1 < g.restoreCount →
      s.qualify f = ({ s with site := { s.site with restore := s.site.restore + 1 } }, .quiet)) ∧
    (s.site.low = true → g.restore ≤ f → g.restoreCount ≤ s.site.restore + 1 →
      s.qualify f = (({ s with site := { s.site with low := false, trip := 0, restore := 0 } }).raise
        .frequencyRestored .part ((f : Int) - g.restore), .restored)) ∧
    (s.signal .quiet = s ∧ s.signal .trip = s.frequencyTrip ∧ s.signal .restored = s.frequencyRestore) ∧
    let barred : Prop := s.policy.live.params.storageEnable = false ∨ s.site.fresh = false ∨
      s.reserve.state = .active ∨ s.reserve.state = .recovery
    let gone := s.endOwned .storage
    let idle := { gone with storage := { gone.storage with state := .idle, target := none } }
    let pool := (allBuses.map fun b => (s.bus b).lendable).sum
    let permits : Prop := (s.reserve.state ≠ .armed ∧ s.reserve.state ≠ .armedShort) ∨ s.reserve.window = none ∨
      ∃ w, s.reserve.window = some w ∧ ((s.winEntry w).power * (s.winEntry w).maxMinutes + 5) / 6 < pool
    let x := s.loadInUse + s.sumStalls (·.sp.charge) + s.sumStalls (·.sp.cond) - s.importCeiling
    let threshold := s.policy.live.params.shaveThreshold
    let spread (y : Nat) : State := let r := s.spread .storage y
      { r.1 with storage := { r.1.storage with target := some y, placed := r.2.1, shortfall := r.2.2 } }
    let again (y : Nat) : State := let v := spread y
      if v.storage.placed = 0 then ({ v with storage := { v.storage with state := .idle, target := none } }).raise .shaveEnd
        .part 1 else v
    (∀ i, (gone.stall i).owner ≠ some .storage) ∧ KeepsOutside s gone ∧
    (barred → (s.storage.state = .inhibited → s.examineStorage = s) ∧
      (s.storage.state = .idle →
        s.examineStorage = { s with storage := { s.storage with state := .inhibited, target := none } }) ∧
      (s.storage.state = .shaving → s.examineStorage =
        ({ gone with storage := { gone.storage with state := .inhibited, target := none } }).raise .shaveEnd .part 2)) ∧
    (¬ barred → s.storage.state ≠ .inhibited → s.examineStorage = s) ∧
    (¬ barred → s.storage.state = .inhibited →
      s.examineStorage = { s with storage := { s.storage with state := .idle, target := none } }) ∧
    (s.storage.state ≠ .shaving ∨ permits → s.testHoldback = s) ∧
    (s.storage.state = .shaving → ¬ permits → s.testHoldback = idle.raise .storageLimit .part pool) ∧
    (s.storage.state = .inhibited → s.storageSample = s) ∧
    (s.storage.state = .idle → (x < threshold ∨ ¬ permits → s.storageSample = s) ∧
      (threshold ≤ x → permits → let v := spread x
        (0 < v.storage.placed → s.storageSample =
          ({ v with storage := { v.storage with state := .shaving } }).raise .shaveStart .part x) ∧
        (v.storage.placed = 0 → s.storageSample = v))) ∧
    (s.storage.state = .shaving → ¬ permits → s.storageSample = idle.raise .storageLimit .part pool) ∧
    (s.storage.state = .shaving → permits → ∀ held, s.storage.target = some held →
      (x = 0 → s.storageSample = idle.raise .shaveEnd .part 0) ∧
      (x ≠ 0 → x < held + threshold → held < x + threshold → s.storageSample = s) ∧
      (x ≠ 0 → held + threshold ≤ x ∨ x + threshold ≤ held → s.storageSample = again x)) ∧
    (s.storage.state ≠ .shaving → s.storageEnded = s) ∧
    (s.storage.state = .shaving → ¬ permits → s.storageEnded = idle.raise .storageLimit .part pool) ∧
    (s.storage.state = .shaving → permits → ∀ held, s.storage.target = some held → s.storageEnded = again held)

/-- A SAMPLE body is import, frequency and sequence number, as 12.5 lays them out, each within its range, and anything
else is not well formed (R56). Fleet power is the sum over all stalls of one term each by freshness (R58), and the
building load in use the last sample's while FRESH, and while STALE the larger of it and the fallback, or the fallback
before any sample (R59). A SAMPLE that is taken becomes the latest sample, makes the meter FRESH, with METER_RESTORED
where it was STALE, and sets fleet power and the building load max(0, import − fleet power); one that skips numbers
while the meter is FRESH raises METER_GAP with their count before it is taken; a repeat is discarded, and one not well
formed counts an error (R56 to R59); one to any destination but the part and broadcast is not taken, and only ends the
run of bad frames (R55). The staleness timer's expiry makes a FRESH meter STALE, its counters 0, its condition and last
load kept, with METER_STALE, and storage INHIBITED, from SHAVING with every STORAGE discharge ended, in ascending stall
number, and SHAVE_END with cause 2; a STALE meter is not touched (R60, R132). -/
def Obligations.SamplesAreTakenAndGoStale : Prop :=
  (∀ s : State,
    let term (x : Stall) : Int := match x.fresh with
      | .fresh => x.power
      | .stale => (x.sp.charge : Int) + x.sp.cond - x.sp.dis
      | .unreachable => 0
      | .none => 0
    s.fleetPower = (allStalls.map fun i => term (s.stall i)).sum) ∧
  (∀ s : State, let fallback := s.policy.live.params.fallbackLoad
    (∀ l, s.site.fresh = true → s.site.lastLoad = some l → s.loadInUse = l) ∧
    (∀ l, s.site.fresh = false → s.site.lastLoad = some l → s.loadInUse = max l fallback) ∧
    (s.site.fresh = false → s.site.lastLoad = none → s.loadInUse = fallback)) ∧
  (∀ (i q : BitVec 16) (f : BitVec 32), let body := be16 i.toNat ++ be32 f.toNat ++ be16 q.toNat
    let inRange := -10000 ≤ i.toInt ∧ i.toInt ≤ 10000 ∧ 40000 ≤ f.toNat ∧ f.toNat ≤ 70000
    (inRange → sampleOf body = some ⟨i.toInt, f.toNat, q.toNat⟩) ∧ (¬ inRange → sampleOf body = none)) ∧
  (∀ body, body.length ≠ 8 → sampleOf body = none) ∧
  (∀ (s : State) (dest tag : Byte) (body : List Byte), dest ≠ 0x00#8 → dest ≠ 0xFF#8 → s.site.rx.state ≠ .brk →
    Ends (.sample dest tag body) s { s with site := { s.site with rx := s.site.rx.afterValid } }) ∧
  (∀ (s : State) (dest tag : Byte) (body : List Byte), (dest = 0x00#8 ∨ dest = 0xFF#8) → s.site.rx.state ≠ .brk →
    let v := { s with site := { s.site with rx := s.site.rx.afterValid } }
    (∀ x, sampleOf body = some x → (s.site.fresh = false ∨ ∀ y, s.site.sample = some y → x.seq ≠ y.seq) →
      ∃ u, Ends (.sample dest tag body) s u ∧ u.site.fresh = true ∧ u.site.sample = some x ∧
        u.site.fleetPower = s.fleetPower ∧ u.site.lastLoad = some (x.importKw - s.fleetPower).toNat ∧
        u.loadInUse = (x.importKw - s.fleetPower).toNat ∧ u.site.rx = v.site.rx ∧ u.site.errors = s.site.errors ∧ KeepsOutside { s with site := u.site } u) ∧
    (∀ x, sampleOf body = some x → s.site.fresh = false ∨ s.site.sample = none →
      Ends (.sample dest tag body) s (v.takeSample x)) ∧
    (∀ x y, sampleOf body = some x → s.site.fresh = true → s.site.sample = some y → x.seq ≠ y.seq →
      (x.seq = (y.seq + 1) % 65536 → Ends (.sample dest tag body) s (v.takeSample x)) ∧
      (x.seq ≠ (y.seq + 1) % 65536 → Ends (.sample dest tag body) s
        ((v.raise .meterGap .part ((x.seq + 65536 - y.seq - 1) % 65536 : Nat)).takeSample x))) ∧
    (∀ x, let r := if s.site.fresh then s else
        ({ s with site := { s.site with fresh := true } }).raise .meterRestored .part 0
      s.storeSample x = { r with site := { r.site with
        sample := some x, fleetPower := s.fleetPower, lastLoad := some (x.importKw - s.fleetPower).toNat } }) ∧
    (∀ x y, sampleOf body = some x → s.site.fresh = true → s.site.sample = some y → x.seq = y.seq →
      Ends (.sample dest tag body) s v) ∧
    (sampleOf body = none → Ends (.sample dest tag body) s
      { v with site := { v.site with errors := min 65535 (s.site.errors + 1) } })) ∧
  ∀ s : State,
    (s.site.fresh = false → Ends .meterStalenessExpiry s s) ∧
    (s.site.fresh = true →
      let stale : State := { s with site := { s.site with fresh := false, trip := 0, restore := 0 } }
      let v := stale.raise .meterStale .part 0
      ∃ u, Ends .meterStalenessExpiry s u ∧ KeepsOutside v u ∧ u.storage.state = .inhibited ∧
        (s.storage.state ≠ .shaving → u.stalls = s.stalls ∧ u.setQ = s.setQ ∧ u.events = v.events) ∧
        u.buses = s.buses ∧ u.deps = s.deps ∧ u.reserve = s.reserve ∧
        u.loadInUse = max (s.site.lastLoad.getD 0) s.policy.live.params.fallbackLoad) ∧
    (s.site.fresh = true →
      let stale : State := { s with site := { s.site with fresh := false, trip := 0, restore := 0 } }
      let v := stale.raise .meterStale .part 0
      let gone := (allStalls.filter fun i => (s.stall i).owner == some .storage).foldl State.endDischarge v
      let barred (w : State) : State := { w with storage := { w.storage with state := .inhibited, target := none } }
      (s.storage.state = .inhibited → Ends .meterStalenessExpiry s v) ∧
      (s.storage.state = .idle → Ends .meterStalenessExpiry s (barred v)) ∧
      (s.storage.state = .shaving → Ends .meterStalenessExpiry s ((barred gone).raise .shaveEnd .part 2) ∧
        ∀ i, (gone.stall i).owner = if (s.stall i).owner = some .storage then none else (s.stall i).owner))

/-- The lendable energy of a bus: what its estimate has above the protected energy while every condition of R125 holds,
0 otherwise; the protected energy by the active departure, the clock and the horizon. A re-evaluation stores the figure
at that bus and changes no other bus. -/
def Obligations.LendableEnergyIsEvaluated : Prop :=
  ∀ (s : State) (b : BusIx),
    let may := ∃ i : StallIx, (s.bus b).stall = some i ∧ (s.stall i).occ = .session ∧ (s.stall i).inService = true ∧
      (s.stall i).fresh = .fresh ∧ (s.eff (dispOf i)).discharge = true ∧ (s.busEntry b).enrolled ≠ 0#8 ∧
      (s.stall i).lend = true ∧ (s.stall i).prot = false
    let horizon : Int := s.policy.live.params.protectHorizon
    let entry := s.busEntry b
    let floor := entry.floor * entry.capacity / 1000
    ((¬ may ∨ (s.bus b).energy = none) → s.lendableNow b = 0) ∧
    (∀ e, may → (s.bus b).energy = some e → s.lendableNow b = e - s.protectedEnergy b) ∧
    (∀ d, s.activeDep b = some d ↔ ∃ k, s.deps[k]? = some d ∧ ActiveAt s b k d) ∧
    (s.activeDep b = none → s.protectedEnergy b = floor) ∧
    (∀ d, s.activeDep b = some d →
      (s.clock = none → s.protectedEnergy b = min entry.capacity (d.route + floor)) ∧
      ∀ n, s.clock = some n → let deadline : Int := s.sdMinute d.minute - d.lead - s.sdMinute (n / 60)
        (horizon < deadline → s.protectedEnergy b = floor) ∧
        (deadline ≤ horizon → s.protectedEnergy b = min entry.capacity (d.route + floor))) ∧
    (s.reeval b).bus b = { s.bus b with lendable := s.lendableNow b } ∧
    ∀ c : BusIx, c ≠ b → (s.reeval b).bus c = s.bus c

/-- How a discharge ends and is lowered. A discharge that ends leaves no owner and discharge 0 at its stall, handed to
the Setpoint Path, its posting reserve-marked where the owner was RESERVE; a STORAGE one returns the stall to the
ALLOCATOR (R113 to R115, R127 step 1). All of one owner end in ascending stall number. A re-evaluation that gives 0
ends the discharge at the bus's stall, and then spreads again for the reserve, or deals with it as storage does; a
figure risen from 0 is spread for while ACTIVE (R126, R127, R148). Falling limits lower each discharge to its stall's
capacity, the least of its bus's discharge limit and its port rating, 0 with no bus (R128), and then by what exceeds
the cabinet, port 1 before port 0; those at 0 end, in ascending stall number, with a reserve spread for each RESERVE
one and a storage spread for any STORAGE one (R131). That the holdback is tested at a changed figure, after the
response, is log 14 (DEDUCED); the order of several buses, log 11. -/
def Obligations.DischargesEndAndAreLowered : Prop :=
  (∀ (s : State) (i : StallIx), let x := s.stall i
    let y : Stall := { x with
      owner := none, discharge := 0, handed := 0
      controller := if x.owner = some .storage then .allocator else x.controller }
    let v := s.setStall i y
    (y.composed = x.sp → s.endDischarge i = v) ∧
    (y.composed ≠ x.sp → s.endDischarge i = { s.setStall i { y with sp := y.composed, lastPosted := s.pathSecond } with
      setQ := postEntry s.setQ i (x.owner == some .reserve) }) ∧
    (x.owner = none → s.dropDischarge i = s) ∧
    (x.owner = some .reserve → s.dropDischarge i = (s.endDischarge i).reserveSpread) ∧
    (x.owner = some .storage → s.dropDischarge i = (s.endDischarge i).storageEnded)) ∧
  (∀ (s : State) (o : Owner), s.endOwned o =
    (allStalls.filter fun i => (s.stall i).owner == some o).foldl State.endDischarge s) ∧
  (∀ (s : State) (b : BusIx), let new := s.lendableNow b
    let old := (s.bus b).lendable
    let m := s.setBus b { s.bus b with lendable := new }
    let held (v : State) : State := if new = old then v else v.testHoldback
    ((s.bus b).stall = none → s.reeval b = held m) ∧
    ∀ i, (s.bus b).stall = some i →
      (new = 0 → s.reeval b = held (m.dropDischarge i)) ∧
      (0 < new → 0 < old → s.reeval b = held m) ∧
      (0 < new → old = 0 → s.reeval b = held m.reserveSpread)) ∧
  ∀ (s : State) (ds : List DispIx), ds.Pairwise (· < ·) →
    let capacity (i : StallIx) : Nat := match (s.stall i).bus with
      | some b => min (s.busEntry b).discharge (s.effPort i)
      | none => 0
    let fit (i : StallIx) : Nat := min (s.stall i).discharge (capacity i)
    let excess (d : DispIx) : Nat := fit (stallAt d 0) + fit (stallAt d 1) - (s.eff d).cabinet
    let keeps (i : StallIx) : Nat := if portOf i = 1 then fit i - excess (dispOf i)
      else fit i - (excess (dispOf i) - fit (stallAt (dispOf i) 1))
    let above := s.overLimit ds
    (∀ i kw, (i, kw) ∈ above ↔ dispOf i ∈ ds ∧ (s.stall i).owner ≠ none ∧ kw = keeps i ∧ kw < (s.stall i).discharge) ∧
    above.Pairwise (fun p q => p.1 < q.1) ∧
    let low := above.foldl State.lowerDischarge s
    (∀ i kw, (i, kw) ∈ above → (low.stall i).discharge = kw ∧ (low.stall i).handed = kw ∧
      (low.stall i).sp = (low.stall i).composed ∧ (low.stall i).owner = if kw = 0 then none else (s.stall i).owner) ∧
    (∀ i, (∀ kw, (i, kw) ∉ above) → low.stall i = s.stall i) ∧ KeepsOutside s low ∧
    low.buses = s.buses ∧ low.deps = s.deps ∧ low.storage = s.storage ∧ low.reserve = s.reserve ∧
    let again := (above.filter fun p => (s.stall p.1).owner = some .reserve).foldl (fun v _ => v.reserveSpread) low
    ((∃ p ∈ above, (s.stall p.1).owner = some .storage) → s.checkLimits ds = again.storageEnded) ∧
    ((∀ p ∈ above, (s.stall p.1).owner ≠ some .storage) → s.checkLimits ds = again)

/-- What a spread places (R129): its candidates are the stalls it may take, in descending lendable energy, equal ones
in ascending stall number; each in turn is placed the least of its capacity, its cabinet's slack and what remains of
the target; what is placed and the shortfall make up the target, and no cabinet is exceeded. The lendable energy of a
stall is its bus's; its discharge capacity the least of its bus's discharge limit in the live FLEET set and its
effective port rating, both 0 with no bus; the slack of a cabinet its effective rating less the discharges of its
stalls that the other owner has and what this spread has placed there (R128). Its result is applied (R130): the ends
first, in ascending stall number, and then, as they were visited, the stalls whose owner or discharge changes, each
handed to the Setpoint Path under the controller R113 gives; so a stall placed an amount takes the owner and that
discharge, one of the owner's that is placed nothing loses its discharge, and the owner and discharge of every other
stall stand. -/
def Obligations.SpreadPlacesTheTarget : Prop :=
  ∀ (s : State) (o : Owner) (x : Nat),
    let r := s.placeAll o [] x (s.candidates o)
    let placed := (r.1.map (·.2)).sum
    let others (d : DispIx) : Nat := (([stallAt d 0, stallAt d 1].filter fun i =>
      (s.stall i).owner != none && (s.stall i).owner != some o).map fun i => (s.stall i).discharge).sum
    (∀ i : StallIx, ((s.stall i).bus = none → s.lendableAt i = 0 ∧ s.disCapacity i = 0) ∧
      ∀ b, (s.stall i).bus = some b → s.lendableAt i = (s.bus b).lendable ∧
        s.disCapacity i = min (s.busEntry b).discharge (s.effPort i)) ∧
    (∀ (ps : List (StallIx × Nat)) (d : DispIx), placedAt ps d = ((ps.filter fun p => dispOf p.1 == d).map (·.2)).sum ∧
      s.otherOwnerSum o d = others d ∧ s.cabinetSlack o ps d = (s.eff d).cabinet - others d - placedAt ps d) ∧
    (∀ i, i ∈ s.candidates o ↔ 0 < s.lendableAt i ∧ ((s.stall i).owner = none ∨ (s.stall i).owner = some o) ∧
      ¬ (o = .storage ∧ (s.stall i).controller = .reserve)) ∧
    (s.candidates o).Pairwise (fun i j =>
      s.lendableAt j < s.lendableAt i ∨ (s.lendableAt i = s.lendableAt j ∧ i < j)) ∧
    r.1.map (·.1) = s.candidates o ∧
    (∀ a i kw b, r.1 = a ++ (i, kw) :: b →
      kw = min (min (s.disCapacity i) (s.cabinetSlack o a (dispOf i))) (x - (a.map (·.2)).sum)) ∧
    (∀ d : DispIx, placedAt r.1 d ≤ (s.eff d).cabinet - s.otherOwnerSum o d) ∧
    placed + r.2 = x ∧ (s.spread o x).2 = (placed, r.2) ∧
    let u := (s.spread o x).1
    let hand (v : State) (p : StallIx × Nat) : State :=
      let y : Stall := { v.stall p.1 with
        owner := some o, discharge := p.2, handed := p.2, controller := if o = .storage then .storage else .reserve }
      if y.composed = y.sp then v.setStall p.1 y else { v.setStall p.1 { y with sp := y.composed, lastPosted := v.pathSecond }
        with setQ := postEntry v.setQ p.1 (o == .reserve) }
    let loses (i : StallIx) : Bool := (s.stall i).owner == some o && r.1.all fun p => p.1 != i || p.2 == 0
    let stands (p : StallIx × Nat) : Bool := (s.stall p.1).owner == some o && (s.stall p.1).discharge == p.2
    u = (r.1.filter fun p => p.2 != 0 && !stands p).foldl hand ((allStalls.filter loses).foldl State.endDischarge s) ∧
    KeepsOutside s u ∧ (∀ i, SameSession (s.stall i) (u.stall i)) ∧ u.buses = s.buses ∧ u.deps = s.deps ∧
    (∀ i kw, (i, kw) ∈ r.1 → 0 < kw → (u.stall i).owner = some o ∧ (u.stall i).discharge = kw) ∧
    ∀ i, (∀ kw, (i, kw) ∈ r.1 → kw = 0) →
      ((s.stall i).owner = some o → (u.stall i).owner = none ∧ (u.stall i).discharge = 0) ∧
      ((s.stall i).owner ≠ some o → u.stall i = s.stall i)

/-- What the Reserve Controller does. An activation's record and held list are filled in (R144), storage is examined,
each held stall is taken in ascending order, a spread covers what curtailment leaves, and RESERVE_ACTIVE and then any
RESERVE_SHORTFALL are raised (R145). A frequency trip activates under a window whose trigger is enabled, is only marked
while ACTIVE, and is nothing while DISARMED; a restore ends a FREQUENCY activation (R143). An end returns the held
stalls, ends every reserve discharge, sets the ramp ceiling to the charge in force, records its cause in RECOVERY, and
raises RESERVE_END with it (R152). While ACTIVE a stall session that begins or loses its protection is taken, one that
ends leaves the held list, and one that becomes protected is returned, with a spread after each change of protection
(R149); in other states a spread, and each of these, has no effect (R148, R149). A take or return composes the stall's
setpoint, and where it changes stores it and posts it with the reserve mark set (R115, R145, R152). In RECOVERY the
window is the one in force then (log 30), and a spread raises RESERVE_SHORTFALL by log 14 (DEDUCED), with the subject
index of log 33. -/
def Obligations.ReserveActsAndEnds : Prop :=
  (∀ (s : State) (t : Trigger) (id : Option Nat) (q now : Nat) (w : WinIx), s.clock = some now →
    let taken := allStalls.filter fun i => (s.stall i).occ.isPlugged && !(s.stall i).prot
    let cut := (taken.map fun i => (s.stall i).sp.charge).sum
    let filled : State := { s with reserve := { s.reserve with
      state := .active
      held := taken.map fun i => (i, (s.stall i).sp.charge)
      act := some {
        trigger := t, requestId := id, target := q, window := s.winEntry w, windowIx := w, baseline := s.fleetPower
        start := now, elapsed := 0, frozen := s.sumStalls fun x => if x.prot then x.sp.charge else 0
        curtailed := cut, placed := 0, shortfall := 0, delivered := none, tripSeen := false, ended := none } } }
    let held := taken.foldl (fun v i => (v.modStall i fun x => { x with controller := .reserve }).recompute i true)
      filled.examineStorage
    (q ≤ cut → s.activate t id q w = held.raise .reserveActive (.reserve w.val) q) ∧
    (cut < q → let r := held.spread .reserve (q - cut)
      let v := (r.1.modAct fun a => { a with placed := r.2.1, shortfall := r.2.2 }).raise .reserveActive (.reserve w.val) q
      s.activate t id q w = if 0 < r.2.2 then v.raise .reserveShortfall (.reserve w.val) r.2.2 else v)) ∧
  (∀ s : State,
    (s.reserve.state = .disarmed → s.frequencyTrip = s) ∧
    (s.reserve.state = .armed ∨ s.reserve.state = .armedShort → ∀ w, s.reserve.window = some w →
      s.frequencyTrip = if (s.winEntry w).freqTrigger then s.activate .frequency none (s.winEntry w).power w else s) ∧
    (s.reserve.state = .active → s.frequencyTrip = { s with reserve := { s.reserve with
      act := s.reserve.act.map fun a => { a with tripSeen := true } } }) ∧
    (s.reserve.state = .recovery → (s.windowInForce = none → s.frequencyTrip = s) ∧
      ∀ w, s.windowInForce = some w →
        s.frequencyTrip = if (s.winEntry w).freqTrigger then s.activate .frequency none (s.winEntry w).power w else s) ∧
    (s.reserve.state ≠ .active → s.frequencyRestore = s) ∧
    (∀ a, s.reserve.state = .active → s.reserve.act = some a → s.frequencyRestore =
      if a.trigger = .frequency then s.endActivation .restore else s)) ∧
  (∀ (s : State) (a : Activation) (c : ActEnd), s.reserve.act = some a →
    let back := s.reserve.held.foldl (fun v e => (v.modStall e.1 fun x => { x with controller := .allocator }).recompute e.1
      true) s
    let gone := ({ back with reserve := { back.reserve with held := [] } }).endOwned .reserve
    let code : Nat := match c with
      | .release => 1
      | .limit => 2
      | .windowEnd => 3
      | .restore => 4
    s.endActivation c = (({ gone with
      alloc := { gone.alloc with ramp := gone.sumStalls (·.sp.charge) }
      reserve := { gone.reserve with state := .recovery, act := some { a with ended := some c } } }).examineStorage).raise
        .reserveEnd (.reserve a.windowIx.val) code ∧
    let u := s.endActivation c
    KeepsOutside s u ∧ u.reserve.state = .recovery ∧ u.reserve.held = [] ∧
    (∀ i, (u.stall i).owner ≠ some .reserve ∧ SameSession (s.stall i) (u.stall i)) ∧
    (∀ e ∈ s.reserve.held, (u.stall e.1).controller = .allocator)) ∧
  ∀ (s : State) (i : StallIx), let x := s.stall i
    let isHeld := ∃ e ∈ s.reserve.held, e.1 = i
    let out := s.reserve.held.filter fun e => e.1 != i
    (∀ m, s.recompute i m = if x.composed = x.sp then s else { s.setStall i { x with
      sp := x.composed, lastPosted := s.pathSecond } with setQ := postEntry s.setQ i m }) ∧
    (s.reserve.state ≠ .active → s.reserveSpread = s ∧
      s.reserveSessionBegins i = s ∧ s.reserveSessionEnds i = s ∧ s.reserveProtected i = s) ∧
    (s.reserve.state = .active → ∀ a, s.reserve.act = some a →
      let held (h : List (StallIx × Nat)) (c : Nat) : State :=
        { s with reserve := { s.reserve with held := h, act := some { a with curtailed := c } } }
      let own (v : State) (k : Controller) : State := (v.modStall i fun y => { y with controller := k }).recompute i true
      s.reserveSessionEnds i = held out a.curtailed ∧
      (x.prot = true ∨ isHeld → s.reserveSessionBegins i = s) ∧
      (x.prot = false → ¬ isHeld → s.reserve.held.Pairwise (fun c d => c.1 < d.1) → ∃ h : List (StallIx × Nat),
        h.Perm ((i, 0) :: s.reserve.held) ∧ h.Pairwise (fun c d => c.1 < d.1) ∧
        s.reserveSessionBegins i = own (held h a.curtailed) .reserve) ∧
      (x.prot = true → ¬ isHeld → s.reserveProtected i = s) ∧
      (∀ kw b c, x.prot = true → s.reserve.held = b ++ (i, kw) :: c → (∀ e ∈ b, e.1 ≠ i) →
        s.reserveProtected i = (own (held out (a.curtailed - kw)) .allocator).reserveSpread) ∧
      (x.prot = false → x.occ.isPlugged = false ∨ isHeld → s.reserveProtected i = s) ∧
      (x.prot = false → x.occ.isPlugged = true → ¬ isHeld → s.reserve.held.Pairwise (fun c d => c.1 < d.1) →
        ∃ h : List (StallIx × Nat), h.Perm ((i, x.sp.charge) :: s.reserve.held) ∧ h.Pairwise (fun c d => c.1 < d.1) ∧
        s.reserveProtected i = (own (held h (a.curtailed + x.sp.charge)) .reserve).reserveSpread) ∧
      let r := s.spread .reserve (a.target - a.curtailed)
      let n := r.1.modAct fun z => { z with placed := r.2.1, shortfall := r.2.2 }
      s.reserveSpread = if 0 < r.2.2 ∧ a.shortfall < r.2.2 then
        n.raise .reserveShortfall (.reserve a.windowIx.val) r.2.2 else n)

/-- DISPATCH ACTIVATE: refused with DISPATCH_REFUSED for power 0, while DISARMED, or in RECOVERY with no window in
force; while armed, or in RECOVERY with a window in force, it activates with the lower of the two powers, the plugged
unprotected stalls taken under RESERVE with charge 0 (R141, R144, R145); while ACTIVE it re-targets, taking over the
request id, and spreads for what curtailment leaves (R147, R148). A frame to another destination is not taken, and a
body that is not well formed only counts an error (R55, R64). The model's own: in RECOVERY the window is the one in
force then (log 30), the subject index of the re-target's records is the activation's window (log 33), and that a
re-target's spread raises RESERVE_SHORTFALL only above the shortfall recorded (log 14, DEDUCED). -/
def Obligations.DispatchActivates : Prop :=
  (∀ (s : State) (dest tag : Byte) (rest : List Byte), s.site.rx.state ≠ .brk →
    let v := { s with site := { s.site with rx := s.site.rx.afterValid } }
    (dest ≠ 0x00#8 → dest ≠ 0xFF#8 → Ends (.dispatchActivate dest tag rest) s v) ∧
    ((dest = 0x00#8 ∨ dest = 0xFF#8) → rest.length ≠ 4 → Ends (.dispatchActivate dest tag rest) s
      { v with site := { v.site with errors := min 65535 (s.site.errors + 1) } })) ∧
  ∀ (s : State) (dest tag a b c d : Byte), (dest = 0x00#8 ∨ dest = 0xFF#8) → s.site.rx.state ≠ .brk →
    let id := a.toNat * 256 + b.toNat
    let power := c.toNat * 256 + d.toNat
    let v := { s with site := { s.site with rx := s.site.rx.afterValid } }
    let refused (n : Nat) := v.raise .dispatchRefused (.reserve 0) n
    (power = 0 → Ends (.dispatchActivate dest tag [a, b, c, d]) s (refused 2)) ∧
    (power ≠ 0 → (s.reserve.state = .disarmed ∨ (s.reserve.state = .recovery ∧ s.windowInForce = none)) →
      Ends (.dispatchActivate dest tag [a, b, c, d]) s (refused 1)) ∧
    (∀ w, power ≠ 0 → (((s.reserve.state = .armed ∨ s.reserve.state = .armedShort) ∧ s.reserve.window = some w) ∨
        (s.reserve.state = .recovery ∧ s.windowInForce = some w)) →
      ∃ u, Ends (.dispatchActivate dest tag [a, b, c, d]) s u ∧ KeepsOutside v u ∧
        u = v.activate .dispatch (some id) (min power (s.winEntry w).power) w ∧
        u.reserve.state = .active ∧ (∃ x, u.reserve.act = some x ∧ x.target = min power (s.winEntry w).power ∧
          x.requestId = some id ∧ x.trigger = .dispatch ∧ x.window = s.winEntry w ∧ x.windowIx = w ∧ x.ended = none ∧
          x.elapsed = 0 ∧ x.tripSeen = false ∧ x.baseline = s.fleetPower ∧
          x.frozen = (s.sumStalls fun y => if y.prot then y.sp.charge else 0) ∧
          x.curtailed = s.sumStalls fun y => if y.occ.isPlugged && !y.prot then y.sp.charge else 0) ∧
        u.reserve.held = ((allStalls.filter fun i => (s.stall i).occ.isPlugged && !(s.stall i).prot).map fun i =>
          (i, (s.stall i).sp.charge)) ∧
        ∀ i, (s.stall i).occ.isPlugged = true → (s.stall i).prot = false →
          (u.stall i).controller = .reserve ∧ (u.stall i).sp.charge = 0) ∧
    (power ≠ 0 → s.reserve.state = .active → ∀ x, s.reserve.act = some x →
      let q := min power x.window.power
      let y := { x with
        target := q, requestId := some id, trigger := if x.requestId = some id then x.trigger else .dispatch }
      let m := ({ v with reserve := { s.reserve with act := some y } }).raise .reserveRetarget (.reserve x.windowIx.val) q
      let r := m.spread .reserve (q - x.curtailed)
      let n := r.1.modAct fun z => { z with placed := r.2.1, shortfall := r.2.2 }
      Ends (.dispatchActivate dest tag [a, b, c, d]) s (if 0 < r.2.2 ∧ x.shortfall < r.2.2 then
        n.raise .reserveShortfall (.reserve x.windowIx.val) r.2.2 else n))

/-- DISPATCH RELEASE: while ACTIVE the activation's own request id ends it with cause RELEASE; another id, or an
activation with none, is refused with DISPATCH_REFUSED 3; in any other state it is refused with 4 (R142, R152). A frame
to another destination is not taken, and a body that is not well formed only counts an error (R55, R64). -/
def Obligations.DispatchReleases : Prop :=
  (∀ (s : State) (dest tag : Byte) (rest : List Byte), s.site.rx.state ≠ .brk →
    let v := { s with site := { s.site with rx := s.site.rx.afterValid } }
    (dest ≠ 0x00#8 → dest ≠ 0xFF#8 → Ends (.dispatchRelease dest tag rest) s v) ∧
    ((dest = 0x00#8 ∨ dest = 0xFF#8) → rest.length ≠ 4 → Ends (.dispatchRelease dest tag rest) s
      { v with site := { v.site with errors := min 65535 (s.site.errors + 1) } })) ∧
  ∀ (s : State) (dest tag a b c d : Byte), (dest = 0x00#8 ∨ dest = 0xFF#8) → s.site.rx.state ≠ .brk →
    let id := a.toNat * 256 + b.toNat
    let v := { s with site := { s.site with rx := s.site.rx.afterValid } }
    let refused (n : Nat) := v.raise .dispatchRefused (.reserve 0) n
    (s.reserve.state = .active → ∀ x, s.reserve.act = some x →
      (x.requestId = some id → ∃ u, Ends (.dispatchRelease dest tag [a, b, c, d]) s u ∧
        u = v.endActivation .release ∧ KeepsOutside v u ∧ u.reserve.state = .recovery ∧ u.reserve.held = [] ∧
        u.reserve.act = some { x with ended := some .release } ∧ (∀ i, (u.stall i).owner ≠ some .reserve) ∧
        (∀ i, s.reserve.held.any (·.1 == i) = true → (u.stall i).controller = .allocator) ∧
        (s.storage.state ≠ .shaving → u.alloc.ramp = u.sumStalls (·.sp.charge))) ∧
      (x.requestId ≠ some id → Ends (.dispatchRelease dest tag [a, b, c, d]) s (refused 3))) ∧
    (s.reserve.state ≠ .active → Ends (.dispatchRelease dest tag [a, b, c, d]) s (refused 4))

/-- Each whole minute of an activation records the fleet power taken off and raises RESERVE_PROGRESS (R150); the end
limit brings that report and then the end, in RECOVERY, with cause LIMIT (R151, R152); with the elapsed seconds at the
limit already, whose report has been made, it brings the end alone. The subject index of RESERVE_PROGRESS is the
activation's window by the model's choice (log 33), and neither command touches a reserve that is not ACTIVE by log 2
(DEDUCED). -/
def Obligations.ActivationMinutesAndLimit : Prop :=
  ∀ s : State,
    (s.reserve.state ≠ .active → Ends .activationMinute s s ∧ Ends .activationLimit s s) ∧
    (s.reserve.state = .active → ∀ x, s.reserve.act = some x → 60 * x.window.maxMinutes ≤ x.elapsed →
      Ends .activationMinute s s ∧ Ends .activationLimit s (s.endActivation .limit)) ∧
    (s.reserve.state = .active → ∀ x, s.reserve.act = some x → x.elapsed < 60 * x.window.maxMinutes →
      let y := { x with elapsed := 60 * (x.elapsed / 60 + 1), delivered := some (x.baseline - s.fleetPower) }
      Ends .activationMinute s (({ s with reserve := { s.reserve with act := some y } }).raise .reserveProgress
        (.reserve x.windowIx.val) (x.baseline - s.fleetPower)) ∧
      ∃ u, Ends .activationLimit s u ∧
        u = ((({ s with reserve := { s.reserve with act := some { y with elapsed := 60 * x.window.maxMinutes } } }).raise
          .reserveProgress (.reserve x.windowIx.val) (x.baseline - s.fleetPower)).endActivation .limit) ∧
        KeepsOutside s u ∧ u.reserve.state = .recovery ∧ u.reserve.held = [] ∧
        ∃ z, u.reserve.act = some z ∧ z.ended = some .limit ∧
        z.elapsed = 60 * x.window.maxMinutes ∧ z.delivered = some (x.baseline - s.fleetPower) ∧ z.target = x.target)

/-! ## The allocation round (06) -/

/-- An expiry of the allocation period first swaps in each PENDING draft, set by set: it becomes the live set, the
generation advances, the draft is OPEN with its cursor at the first table, COMMITTED is raised, and the set's owners
act, the device CONFIGURED by PLANT (R173); a set not PENDING is not touched. The PLANT swap's presence, service status
and census, which ends at once with CENSUS_DONE when nothing is listed (R6, R7, R11, R12; the frame of a discarded
probe: log 10), and then its re-evaluation of the buses and check of every discharge against the new limits (R126,
R131; in this order by log 11); and the FLEET swap's lost buses, whose stalls become GUEST with BUS_UNKNOWN, its match
of the others, each with its estimate lowered to the new capacity, its stall's bus field moved to the new index, and
that stall's residue 0 where the estimate was lowered (R52), and what it hands on (R85, R126, R127, R131; the order by
log 11), where a matched entry that is disabled keeps its estimate too, lowered to the new capacity (log 21, DEDUCED).
Then it takes a round: its grants are stored, the round count advances, the timer restarts, and, with no draft PENDING,
every stall's setpoint in force is composed from the new grants (R89, R91, R112). -/
def Obligations.PeriodExpiryTakesARound : Prop :=
  (∀ s : State, ∃ u, Ends .allocationPeriodExpiry s u ∧
    let swapped (α : Type) (t : TableSet α) : TableSet α := if t.pending then
      { live := t.draft, liveEmpty := false, generation := (t.generation + 1) % 65536, draft := t.draft, pending := false,
        selected := 0, cursor := 0 } else t
    u.plant = swapped _ s.plant ∧ u.fleet = swapped _ s.fleet ∧ u.schedule = swapped _ s.schedule ∧
    u.grid = swapped _ s.grid ∧ u.policy = swapped _ s.policy ∧ u.configured = (s.configured || s.plant.pending) ∧
    u.alloc.roundCount = (s.alloc.roundCount + 1) % 65536 ∧ u.alloc.remaining = u.policy.live.params.period ∧
    u.lock = s.lock ∧ u.superv = s.superv ∧ u.clock = s.clock ∧ u.site = s.site ∧ u.office = s.office ∧
    u.pathSecond = s.pathSecond) ∧
  (∀ s : State, let done (n g : Nat) (v : State) := v.raise .committed (.tableSet n) g
    let next (g : Nat) := (g + 1) % 65536
    (s.plant.pending = true → s.swapPlant = { done 0 (next s.plant.generation) { s with plant := s.plant.swapped } with
      configured := true }.plantSwapped) ∧
    (s.fleet.pending = true → s.swapFleet =
      (done 1 (next s.fleet.generation) { s with fleet := s.fleet.swapped }).fleetSwapped s.fleet.live) ∧
    (s.schedule.pending = true → s.swapSchedule =
      (done 2 (next s.schedule.generation) { s with schedule := s.schedule.swapped }).scheduleSwapped) ∧
    (s.grid.pending = true → s.swapGrid =
      (done 3 (next s.grid.generation) { s with grid := s.grid.swapped }).gridSwapped) ∧
    (s.policy.pending = true → s.swapPolicy =
      (done 4 (next s.policy.generation) { s with policy := s.policy.swapped }).policySwapped s.policy.live.params.dayRoll) ∧
    let taken := s.swapPlant.swapFleet.swapSchedule.swapGrid.swapPolicy
    Ends .allocationPeriodExpiry s
      ({ taken with alloc := { taken.alloc with remaining := taken.policy.live.params.period } }).takeRound) ∧
  (∀ s : State, let u := s.plantSwapped
    (∀ d : DispIx, let p := s.pres d
      u.pres d = if s.plant.live.dispensers[d.val].listed = false then
          (if p.presence = .unlisted then p else ⟨.unlisted, 0, none⟩)
        else if p.presence = .unlisted then { p with presence := .unprobed, miss := 0 } else { p with miss := 0 }) ∧
    (∀ i : StallIx, (u.stall i).inService = u.serviceOf i) ∧
    (u.census.running = true ↔ ∃ d : DispIx, (u.pres d).presence ≠ .unlisted) ∧ u.census.outstanding = false ∧
    (∀ d, u.census.probe = some d ↔ (u.pres d).presence ≠ .unlisted ∧ ∀ c : DispIx, c < d → (u.pres c).presence = .unlisted) ∧
    (∀ d, u.window ≠ some (.census d))) ∧
  (∀ s : State, ∃ v t : State, v = { s with presence := v.presence } ∧
    (∀ d : DispIx, let p := s.pres d
      v.pres d = if s.plant.live.dispensers[d.val].listed = false then
          (if p.presence = .unlisted then p else ⟨.unlisted, 0, none⟩)
        else if p.presence = .unlisted then { p with presence := .unprobed, miss := 0 } else p) ∧
    CensusStarts (probeDiscarded v.reService) t ∧
    s.plantSwapped = (allBuses.foldl State.reeval t).checkLimits allDisps) ∧
  (∀ (s : State) (b : BusIx),
    ((s.bus b).stall = none → s.loseBus b = s) ∧
    ∀ i, (s.bus b).stall = some i → let v := s.setBus b { s.bus b with
        stall := none, carried := (s.bus b).energy.isSome || (s.bus b).carried }
      s.loseBus b = (v.setStall i { v.stall i with bus := none, baseline := none, residue := 0, occ := .guest }).raise
        .busUnknown (.stall i) 0) ∧
  (∀ (s : State) (old : Vector BusEntry 64),
    let lost := allBuses.filter fun b => (s.bus b).stall.isSome && (s.rosterIx old[b.val].fleet).isNone
    let met := (lost.foldl State.loseBus s).rematch old
    let kept : State := { met with deps := met.deps.map fun d => if d.state.isOpen && (met.rosterIx d.fleet).isNone then
      { d with state := .cancelled, short := false, atRisk := false } else d }
    s.fleetSwapped old = trackerHandsOn kept.sortDeps.evalAll fun v =>
      ((allBuses.foldl State.reeval ((lost.filterMap fun b => (s.bus b).stall).foldl State.dropDischarge v)).checkLimits
        allDisps).testHoldback) ∧
  (∀ (s : State) (old : Vector BusEntry 64), let u := s.rematch old
    let now (o b : BusIx) : Prop := old[o.val].fleet ≠ 0 ∧ (s.busEntry b).fleet = old[o.val].fleet ∧
      ∀ c : BusIx, c < b → (s.busEntry c).fleet ≠ old[o.val].fleet
    u = { s with buses := u.buses, stalls := u.stalls } ∧
    ∀ i : StallIx, ((s.stall i).bus = none → u.stall i = s.stall i) ∧ ∀ o, (s.stall i).bus = some o →
      ((∀ b, ¬ now o b) → u.stall i = { s.stall i with bus := none }) ∧
      ∀ b, now o b → u.stall i = { s.stall i with
        bus := some b
        residue := if (s.busEntry b).capacity < (s.bus o).energy.getD 0 then 0 else (s.stall i).residue }) ∧
  (∀ (s : State) (old : Vector BusEntry 64), Associated s → FleetDistinct old → FleetDistinct s.fleet.live →
    let u := s.fleetSwapped old
    ∀ (i : StallIx) (o : BusIx), (s.stall i).bus = some o →
      (s.rosterIx old[o.val].fleet = none → (u.stall i).bus = none ∧ (u.stall i).occ = .guest ∧
        (u.stall i).residue = 0 ∧ (u.stall i).baseline = none ∧ (u.stall i).fleetNo = (s.stall i).fleetNo) ∧
      ∀ b, s.rosterIx old[o.val].fleet = some b → (u.stall i).bus = some b ∧ (u.stall i).occ = .session ∧
        (u.stall i).baseline = (s.stall i).baseline ∧ (u.stall i).fleetNo = (s.stall i).fleetNo ∧
        (u.stall i).residue =
          if (s.busEntry b).capacity < (s.bus o).energy.getD 0 then 0 else (s.stall i).residue) ∧
  (∀ (s : State) (old : Vector BusEntry 64) (b : BusIx), let u := s.fleetSwapped old
    ((s.busEntry b).fleet = 0 ∨ (∀ o : BusIx, old[o.val].fleet ≠ (s.busEntry b).fleet) →
      (u.bus b).energy = none ∧ (u.bus b).stall = none ∧ (u.bus b).carried = false) ∧
    ∀ o : BusIx, (s.busEntry b).fleet ≠ 0 → old[o.val].fleet = (s.busEntry b).fleet →
      (∀ c : BusIx, c < o → old[c.val].fleet ≠ (s.busEntry b).fleet) →
      (u.bus b).energy = (s.bus o).energy.map (fun e => min e (s.busEntry b).capacity) ∧
      ((s.busEntry b).enabled ≠ 0#8 → (u.bus b).stall = (s.bus o).stall ∧ (u.bus b).carried = (s.bus o).carried) ∧
      ((∀ c, (s.busEntry c).fleet = (s.busEntry b).fleet → (s.busEntry c).enabled = 0#8) → (u.bus b).stall = none)) ∧
  ∀ s : State, s.plant.pending = false → s.fleet.pending = false → s.schedule.pending = false →
    s.grid.pending = false → s.policy.pending = false → ∃ u, Ends .allocationPeriodExpiry s u ∧
      (∀ i : StallIx, (u.stall i).grant = s.computeRound.charge[i.val] ∧
        (u.stall i).condGrant = s.computeRound.cond[i.val]) ∧
      (s.reserve.state ≠ .recovery → ∀ i : StallIx, (u.stall i).sp = (u.stall i).composed ∧
        (u.stall i).cap = (s.stall i).cap ∧ (u.stall i).owner = (s.stall i).owner) ∧
      u.alloc.roundCount = (s.alloc.roundCount + 1) % 65536 ∧ u.alloc.remaining = s.policy.live.params.period ∧
      u.alloc.record = s.computeRound.record ∧ u.plant = s.plant ∧ u.site = s.site ∧
      (∀ i, (u.stall i).occ = (s.stall i).occ ∧ (u.stall i).fresh = (s.stall i).fresh ∧ (u.stall i).bus = (s.stall i).bus) ∧
      (∀ b, (u.bus b).energy = (s.bus b).energy ∧ (u.bus b).stall = (s.bus b).stall) ∧
      (∀ i, (s.stall i).takesPart = false → (u.stall i).grant = 0 ∧ (u.stall i).condGrant = 0) ∧
      u.presence = s.presence ∧ u.clock = s.clock ∧ u.deps = s.deps ∧ u.office = s.office

/-- After every allocation round no cabinet, no panel (its limit 0 out of service) and not the site carries more than
its limit: charge and conditioning grants within each cabinet and panel, conditioning within max(0, F − L), charge
within the hard budget of the round, and nothing at a stall that does not take part (R106). -/
def Obligations.RoundsKeepTheLimits : Prop :=
  ∀ s t : State, exec .allocationPeriodExpiry s = .next t →
    let sum (p : StallIx → Bool) := ((allStalls.filter p).map fun i => (t.stall i).grant + (t.stall i).condGrant).sum
    (∀ d : DispIx, sum (fun i => dispOf i == d) ≤ (t.eff d).cabinet) ∧
    (∀ p : PanelIx, sum (fun i => t.panelOf i == some p) ≤ t.panelLimit p ∧
      (t.plant.live.panels[p.val].inService = false → sum (fun i => t.panelOf i == some p) = 0)) ∧
    sum (fun _ => true) ≤ t.alloc.record.hard + t.sumStalls (·.condGrant) ∧
    t.sumStalls (·.condGrant) ≤ t.plant.live.site.feeder - t.loadInUse ∧
    t.sumStalls (·.grant) ≤ t.alloc.record.hard ∧
    ∀ i : StallIx, (t.stall i).takesPart = false → (t.stall i).grant = 0 ∧ (t.stall i).condGrant = 0

/-- The figures of a round. The stalls that take part (R92), in ascending deadline key and stall number (R95); the
ceiling, key, requirement and conditioning demand of each: a held one asks for its setpoint in force and no more (R93);
a FRESH one in SESSION by port, acceptance and taper, SoC, need and deadline, and a guest by the guest ceiling (R94 to
R96, R100); with the protected flag (R97). Who may take surplus apart from slack (R107). The import ceiling in force is
the CEILING entry of the current half hour, and the feeder limit while the clock is UNSET or the live GRID set empty
(R63); the building load in use the fresh or the stale figure (R59). The budgets of a round after a conditioning total
K, hard and soft, as the reserve bounds them: by the frozen protected budget while ACTIVE, by the ramp ceiling raised
by one step in RECOVERY (R102 to R104). -/
def Obligations.RoundFiguresAreReckoned : Prop :=
  (∀ s : State,
    (∀ q, q ∈ s.parties ↔ ∃ i : StallIx, q = s.partyOf i ∧ (s.stall i).inService = true ∧
      (s.stall i).occ.isPlugged = true ∧ ((s.stall i).fresh = .fresh ∨ (s.stall i).fresh = .stale)) ∧
    s.parties.Pairwise fun p q => p.key < q.key ∨ (p.key = q.key ∧ p.stall < q.stall)) ∧
  (∀ x : Stall, x.takesPart = true ↔ x.inService = true ∧ x.occ.isPlugged = true ∧ (x.fresh = .fresh ∨ x.fresh = .stale)) ∧
  (∀ s : State, let fallback := s.policy.live.params.fallbackLoad
    (s.clock = none ∨ s.grid.liveEmpty = true → s.importCeiling = s.plant.live.site.feeder) ∧
    (∀ (n : Nat) (k : Fin 48), s.clock = some n → s.grid.liveEmpty = false → n / 60 / 30 = k.val →
      s.importCeiling = s.grid.live.ceilings[k.val]) ∧
    (∀ l, s.site.fresh = true → s.site.lastLoad = some l → s.loadInUse = l) ∧
    (∀ l, s.site.fresh = false → s.site.lastLoad = some l → s.loadInUse = max l fallback) ∧
    (s.site.fresh = false → s.site.lastLoad = none → s.loadInUse = fallback)) ∧
  (∀ (s : State) (i : StallIx), let x := s.stall i
    let p := s.partyOf i
    let due (b : BusIx) (k : Nat) (d : Departure) : Prop :=
      x.occ = .session ∧ x.bus = some b ∧ s.deps[k]? = some d ∧ ActiveAt s b k d
    let idle := x.occ ≠ .session ∨ x.bus = none ∨ ∃ b, x.bus = some b ∧ ∀ k d, ¬ due b k d
    p.stall = i ∧ p.prot = x.prot ∧
    (idle ∨ s.clock = none → p.key = 1440) ∧
    (∀ b k d n, due b k d → s.clock = some n → p.key = deadlineFigure s d n) ∧
    (x.fresh = .stale → p.ceiling = x.sp.charge ∧ p.need = x.sp.charge ∧ p.cond = x.sp.cond ∧ p.eager = false) ∧
    (x.fresh ≠ .stale →
      (x.occ ≠ .session ∨ x.bus = none → p.ceiling = min s.policy.live.params.guestCeiling (s.effPort i)) ∧
      (∀ b, x.occ = .session → x.bus = some b → let a := (s.busEntry b).accept
        let soc := ((s.bus b).energy).getD 0 * 1000 / (s.busEntry b).capacity
        p.ceiling = min (s.effPort i) (min a (if soc ≤ 800 then a else a * (200 + 9 * (1000 - soc)) / 2000))) ∧
      (idle → p.need = 0 ∧ p.cond = 0) ∧
      (∀ b k d, due b k d →
        (s.clock = none ∨ needFigure s b d = 0 → p.need = 0) ∧
        (∀ n, s.clock = some n → 0 < needFigure s b d → let t := deadlineFigure s d n
          (t ≤ 0 → p.need = p.ceiling) ∧
          (0 < t → p.need = min p.ceiling ((6 * needFigure s b d + t.toNat - 1) / t.toNat))) ∧
        (d.state = .conditioning → p.cond = min d.power (s.effPort i)) ∧
        (d.state ≠ .conditioning → p.cond = 0)) ∧
      let full (b : BusIx) (target : Nat) : Prop := ∃ e, (s.bus b).energy = some e ∧
        max target (s.policy.live.params.chargeTo * (s.busEntry b).capacity / 1000) ≤ e
      (x.occ ≠ .session ∨ x.bus = none → (p.eager = true ↔ x.fresh = .fresh ∧ x.controller = .allocator)) ∧
      (∀ b, x.occ = .session → x.bus = some b → (∀ k d, ¬ due b k d) →
        (p.eager = true ↔ x.fresh = .fresh ∧ x.controller = .allocator ∧ ¬ full b 0)) ∧
      ∀ b k d, due b k d → (p.eager = true ↔ x.fresh = .fresh ∧ x.controller = .allocator ∧ ¬ full b (targetFigure s b d)))) ∧
  ∀ (s : State) (k : Nat), let limit := s.plant.live.site.feeder
    let hard := limit - s.loadInUse - k
    let soft := min limit s.importCeiling - s.loadInUse - k
    let ramp := min 65535 (s.alloc.ramp + s.policy.live.params.rampStep)
    (s.reserve.state ≠ .active → s.reserve.state ≠ .recovery → s.budgets k = ⟨hard, soft, soft, .none, s.alloc.ramp⟩) ∧
    (∀ a, s.reserve.state = .active → s.reserve.act = some a →
      s.budgets k = ⟨min hard a.frozen, min soft a.frozen, soft, .active, s.alloc.ramp⟩) ∧
    (s.reserve.state = .recovery → s.budgets k = ⟨min hard ramp, min soft ramp, soft, .recovery, ramp⟩)

/-- What a round grants. The conditioning grants, and then the charge grants, are three fits in turn (R98): at each
dispenser, each panel and the site, each taking the grants before it as its demands, the conditioning ones all
protected (R101), the charge ones with the requirements, 0 for an unprotected stall while the reserve is ACTIVE (R103),
and under what conditioning leaves (R105). The surplus, soft budget less these (R107), is handed out pass by pass by
shares within each stall's slack, until it is 0 or nobody is eligible; while ACTIVE no pass is run (R108). The round's
allocation record (R110); a stall that does not take part is granted 0 (R92). The round is applied: grants, ramp
ceiling, record and count are stored, each setpoint composed, and in RECOVERY, once the soft budget of R102 is within
the ramp ceiling, the arming evaluation is made (R91, R109, R153). -/
def Obligations.RoundGrantsAreFitted : Prop :=
  (∀ s : State, let ps := s.parties
    let r := s.computeRound
    let carries (q : Option PanelIx) : Nat := match q with
      | some p => if s.plant.live.panels[p.val].inService then s.plant.live.panels[p.val].limit else 0
      | none => 0
    let fitted (flag : Party → Bool) (bu b : Nat) (pick : Party → Bool) (g h : Grants) : Prop :=
      (ps.filter pick).map h.of = fit bu b ((ps.filter pick).map fun p => ⟨flag p, g.of p⟩)
    let atD (d : DispIx) (p : Party) : Bool := dispOf p.stall == d
    let atP (q : Option PanelIx) (p : Party) : Bool := s.panelOf p.stall == q
    let total (g : Grants) (pick : Party → Bool) : Nat := ((ps.filter pick).map g.of).sum
    let levels (flag : Party → Bool) (ask : Party → Nat) (used : Grants) (bu b : Nat) (h : Grants) : Prop :=
      ∃ g0 g1 g2 : Grants, (∀ p ∈ ps, g0.of p = ask p) ∧
        (∀ d, let left := (s.eff d).cabinet - total used (atD d)
          fitted flag left left (atD d) g0 g1) ∧
        (∀ q, let left := carries q - total used (atP q)
          fitted flag left left (atP q) g1 g2) ∧
        fitted flag bu b (fun _ => true) g2 h
    let free := s.plant.live.site.feeder - s.loadInUse
    let k := (allStalls.map fun i => r.cond[i.val]).sum
    let b := s.budgets k
    levels (fun _ => true) Party.cond (Vector.replicate 48 0) free free r.cond ∧ r.budget = b ∧
    (∀ i : StallIx, (s.stall i).takesPart = false → r.charge[i.val] = 0 ∧ r.cond[i.val] = 0) ∧
    ∃ m : Grants, levels Party.prot (fun p => if s.reserve.state = .active ∧ p.prot = false then 0 else p.need) r.cond b.hard
        b.soft m ∧ (∀ i : StallIx, (s.stall i).takesPart = false → m[i.val] = 0) ∧
      let surplus := b.soft - (ps.map m.of).sum
      (s.reserve.state = .active → r.charge = m) ∧
      (s.reserve.state ≠ .active → (r.charge, surplus - r.record.handedOut) = s.passes ps r.cond surplus (m, surplus) ∧
        r.record.unused = some (surplus - r.record.handedOut) ∧ r.record.handedOut ≤ surplus ∧
        (surplus = r.record.handedOut ∨ ∀ p ∈ ps, p.eager = true → s.slack ps r.cond r.charge p = 0)) ∧
      (∀ p ∈ ps, m.of p ≤ r.charge.of p) ∧ (ps.map r.charge.of).sum = (ps.map m.of).sum + r.record.handedOut ∧
      r.record = { r.record with
        minute := s.clock.map (· / 60), feeder := s.plant.live.site.feeder, ceiling := s.importCeiling, load := s.loadInUse
        cond := k, hard := b.hard, soft := b.soft, softPlain := b.softPlain, modif := b.modif, ramp := b.ramp
        chargeSum := (ps.map r.charge.of).sum }) ∧
  (∀ (s : State) (cond g : Grants) (left fuel : Nat), let ps := s.parties
    let el := ps.filter fun p => p.eager && decide (0 < s.slack ps cond g p)
    let share := max 1 (left / el.length)
    (∀ p, s.slack ps cond g p = min (p.ceiling - g.of p)
      (min ((s.eff (dispOf p.stall)).cabinet - ((ps.filter fun q => dispOf q.stall == dispOf p.stall).map fun q =>
          g.of q + cond.of q).sum)
        ((match s.panelOf p.stall with
          | some n => if s.plant.live.panels[n.val].inService then s.plant.live.panels[n.val].limit else 0
          | none => 0) - ((ps.filter fun q => s.panelOf q.stall == s.panelOf p.stall).map fun q =>
            g.of q + cond.of q).sum))) ∧
    (el = [] ∨ left = 0 → s.passes ps cond fuel (g, left) = (g, left)) ∧
    (el ≠ [] → 0 < left → left ≤ fuel → let r := s.passVisit ps cond share el (g, left)
      r.2 < left ∧ s.passes ps cond fuel (g, left) = s.passes ps cond r.2 r) ∧
    s.passVisit ps cond share [] (g, left) = (g, left) ∧
    ∀ p rest, let n := min share (min (s.slack ps cond g p) left)
      s.passVisit ps cond share (p :: rest) (g, left) =
        s.passVisit ps cond share rest (g.set p.stall.val (g.of p + n), left - n)) ∧
  ∀ s : State, let r := s.computeRound
    ∃ v : State, KeepsOutside { s with alloc := { s.alloc with
        ramp := r.budget.ramp, record := r.record, roundCount := (s.alloc.roundCount + 1) % 65536 } } v ∧
      v.alloc.ramp = r.budget.ramp ∧ v.buses = s.buses ∧ v.deps = s.deps ∧ v.events = s.events ∧ v.reserve = s.reserve ∧
      (∀ i, (v.stall i).grant = r.charge[i.val] ∧ (v.stall i).condGrant = r.cond[i.val] ∧
        (v.stall i).sp = (v.stall i).composed ∧ (v.stall i).occ = (s.stall i).occ ∧ (v.stall i).cap = (s.stall i).cap ∧
        ((v.stall i).sp ≠ (s.stall i).sp → (v.stall i).lastPosted = s.pathSecond ∧
          ∃ e ∈ v.setQ, e.stall = i ∧ e.inFlight = false)) ∧
      (s.reserve.state = .recovery → r.budget.softPlain ≤ r.budget.ramp → s.takeRound = v.armingEval) ∧
      (s.reserve.state ≠ .recovery ∨ r.budget.ramp < r.budget.softPlain → s.takeRound = v)

/-- The grants of a fit. Each protected demand, in turn, is given what it asks, up to what remains of Bu; the others,
when they fit in what the budget leaves them, what they ask, and otherwise the whole part of their proportional share,
and then one kilowatt more each to the first of those above 0, until none is left over (R98). So each is at most its
demand; the protected ones at most Bu; and all of them at most Bu, and at most B unless protected demands alone need
more (R99). -/
def Obligations.FitKeepsTheBudgets : Prop :=
  ∀ (bu b : Nat) (ds : List Demand), b ≤ bu →
    let g := fit bu b ds
    let prot := (((ds.zip g).filter fun p => p.1.prot).map (·.2)).sum
    let rest := (((ds.zip g).filter fun p => !p.1.prot).map (·.2)).sum
    let asked := ((ds.filter fun d => !d.prot).map (·.amount)).sum
    let free (d : Demand) : Nat := if d.prot then 0 else d.amount
    let floors := (ds.map fun d => free d * (b - prot) / asked).sum
    (∀ (k : Nat) (d : Demand), ds[k]? = some d →
      (d.prot = true → g[k]? = some (min d.amount (bu - ((((ds.zip g).take k).filter fun p => p.1.prot).map
        (·.2)).sum))) ∧
      (d.prot = false → asked ≤ b - prot → g[k]? = some d.amount) ∧
      (d.prot = false → b - prot < asked → g[k]? = some (d.amount * (b - prot) / asked +
        if 0 < d.amount ∧ ((ds.take k).filter fun e => 0 < free e).length < b - prot - floors then 1 else 0))) ∧
    g.length = ds.length ∧ (∀ p ∈ ds.zip g, p.2 ≤ p.1.amount) ∧ prot ≤ bu ∧
    (asked ≤ b - prot → rest = asked) ∧ (b - prot < asked → rest = b - prot) ∧
    g.sum = prot + rest ∧ g.sum ≤ max prot b ∧ g.sum ≤ bu
end

