-- ==== Sys2Proof/Laws/State.lean ====
section
/-! SUPPORT. One lemma per field per update: what each update of the state leaves as it was. -/

namespace Sys2Proof.Machine

open Sys2Proof

section setStall

variable (s : State) (i : StallIx) (x : Stall)

@[simp] theorem State.setStall_plant : (s.setStall i x).plant = s.plant := rfl
@[simp] theorem State.setStall_fleet : (s.setStall i x).fleet = s.fleet := rfl
@[simp] theorem State.setStall_schedule : (s.setStall i x).schedule = s.schedule := rfl
@[simp] theorem State.setStall_grid : (s.setStall i x).grid = s.grid := rfl
@[simp] theorem State.setStall_policy : (s.setStall i x).policy = s.policy := rfl
@[simp] theorem State.setStall_lock : (s.setStall i x).lock = s.lock := rfl
@[simp] theorem State.setStall_configured : (s.setStall i x).configured = s.configured := rfl
@[simp] theorem State.setStall_resetCause : (s.setStall i x).resetCause = s.resetCause := rfl
@[simp] theorem State.setStall_superv : (s.setStall i x).superv = s.superv := rfl
@[simp] theorem State.setStall_office : (s.setStall i x).office = s.office := rfl
@[simp] theorem State.setStall_lineA : (s.setStall i x).lineA = s.lineA := rfl
@[simp] theorem State.setStall_lineB : (s.setStall i x).lineB = s.lineB := rfl
@[simp] theorem State.setStall_active : (s.setStall i x).active = s.active := rfl
@[simp] theorem State.setStall_setQ : (s.setStall i x).setQ = s.setQ := rfl
@[simp] theorem State.setStall_passQ : (s.setStall i x).passQ = s.passQ := rfl
@[simp] theorem State.setStall_pollPos : (s.setStall i x).pollPos = s.pollPos := rfl
@[simp] theorem State.setStall_between : (s.setStall i x).between = s.between := rfl
@[simp] theorem State.setStall_probed : (s.setStall i x).probed = s.probed := rfl
@[simp] theorem State.setStall_window : (s.setStall i x).window = s.window := rfl
@[simp] theorem State.setStall_test : (s.setStall i x).test = s.test := rfl
@[simp] theorem State.setStall_presence : (s.setStall i x).presence = s.presence := rfl
@[simp] theorem State.setStall_census : (s.setStall i x).census = s.census := rfl
@[simp] theorem State.setStall_buses : (s.setStall i x).buses = s.buses := rfl
@[simp] theorem State.setStall_site : (s.setStall i x).site = s.site := rfl
@[simp] theorem State.setStall_clock : (s.setStall i x).clock = s.clock := rfl
@[simp] theorem State.setStall_deps : (s.setStall i x).deps = s.deps := rfl
@[simp] theorem State.setStall_alloc : (s.setStall i x).alloc = s.alloc := rfl
@[simp] theorem State.setStall_pathSecond : (s.setStall i x).pathSecond = s.pathSecond := rfl
@[simp] theorem State.setStall_storage : (s.setStall i x).storage = s.storage := rfl
@[simp] theorem State.setStall_reserve : (s.setStall i x).reserve = s.reserve := rfl
@[simp] theorem State.setStall_events : (s.setStall i x).events = s.events := rfl
@[simp] theorem State.setStall_freeCount : (s.setStall i x).freeCount = s.freeCount := rfl
@[simp] theorem State.setStall_pending : (s.setStall i x).pending = s.pending := rfl

end setStall

section modStall

variable (s : State) (i : StallIx) (f : Stall → Stall)

@[simp] theorem State.modStall_plant : (s.modStall i f).plant = s.plant := rfl
@[simp] theorem State.modStall_fleet : (s.modStall i f).fleet = s.fleet := rfl
@[simp] theorem State.modStall_schedule : (s.modStall i f).schedule = s.schedule := rfl
@[simp] theorem State.modStall_grid : (s.modStall i f).grid = s.grid := rfl
@[simp] theorem State.modStall_policy : (s.modStall i f).policy = s.policy := rfl
@[simp] theorem State.modStall_lock : (s.modStall i f).lock = s.lock := rfl
@[simp] theorem State.modStall_configured : (s.modStall i f).configured = s.configured := rfl
@[simp] theorem State.modStall_resetCause : (s.modStall i f).resetCause = s.resetCause := rfl
@[simp] theorem State.modStall_superv : (s.modStall i f).superv = s.superv := rfl
@[simp] theorem State.modStall_office : (s.modStall i f).office = s.office := rfl
@[simp] theorem State.modStall_lineA : (s.modStall i f).lineA = s.lineA := rfl
@[simp] theorem State.modStall_lineB : (s.modStall i f).lineB = s.lineB := rfl
@[simp] theorem State.modStall_active : (s.modStall i f).active = s.active := rfl
@[simp] theorem State.modStall_setQ : (s.modStall i f).setQ = s.setQ := rfl
@[simp] theorem State.modStall_passQ : (s.modStall i f).passQ = s.passQ := rfl
@[simp] theorem State.modStall_pollPos : (s.modStall i f).pollPos = s.pollPos := rfl
@[simp] theorem State.modStall_between : (s.modStall i f).between = s.between := rfl
@[simp] theorem State.modStall_probed : (s.modStall i f).probed = s.probed := rfl
@[simp] theorem State.modStall_window : (s.modStall i f).window = s.window := rfl
@[simp] theorem State.modStall_test : (s.modStall i f).test = s.test := rfl
@[simp] theorem State.modStall_presence : (s.modStall i f).presence = s.presence := rfl
@[simp] theorem State.modStall_census : (s.modStall i f).census = s.census := rfl
@[simp] theorem State.modStall_buses : (s.modStall i f).buses = s.buses := rfl
@[simp] theorem State.modStall_site : (s.modStall i f).site = s.site := rfl
@[simp] theorem State.modStall_clock : (s.modStall i f).clock = s.clock := rfl
@[simp] theorem State.modStall_deps : (s.modStall i f).deps = s.deps := rfl
@[simp] theorem State.modStall_alloc : (s.modStall i f).alloc = s.alloc := rfl
@[simp] theorem State.modStall_pathSecond : (s.modStall i f).pathSecond = s.pathSecond := rfl
@[simp] theorem State.modStall_storage : (s.modStall i f).storage = s.storage := rfl
@[simp] theorem State.modStall_reserve : (s.modStall i f).reserve = s.reserve := rfl
@[simp] theorem State.modStall_events : (s.modStall i f).events = s.events := rfl
@[simp] theorem State.modStall_freeCount : (s.modStall i f).freeCount = s.freeCount := rfl
@[simp] theorem State.modStall_pending : (s.modStall i f).pending = s.pending := rfl

end modStall

section setBus

variable (s : State) (b : BusIx) (x : Bus)

@[simp] theorem State.setBus_plant : (s.setBus b x).plant = s.plant := rfl
@[simp] theorem State.setBus_fleet : (s.setBus b x).fleet = s.fleet := rfl
@[simp] theorem State.setBus_schedule : (s.setBus b x).schedule = s.schedule := rfl
@[simp] theorem State.setBus_grid : (s.setBus b x).grid = s.grid := rfl
@[simp] theorem State.setBus_policy : (s.setBus b x).policy = s.policy := rfl
@[simp] theorem State.setBus_lock : (s.setBus b x).lock = s.lock := rfl
@[simp] theorem State.setBus_configured : (s.setBus b x).configured = s.configured := rfl
@[simp] theorem State.setBus_resetCause : (s.setBus b x).resetCause = s.resetCause := rfl
@[simp] theorem State.setBus_superv : (s.setBus b x).superv = s.superv := rfl
@[simp] theorem State.setBus_office : (s.setBus b x).office = s.office := rfl
@[simp] theorem State.setBus_lineA : (s.setBus b x).lineA = s.lineA := rfl
@[simp] theorem State.setBus_lineB : (s.setBus b x).lineB = s.lineB := rfl
@[simp] theorem State.setBus_active : (s.setBus b x).active = s.active := rfl
@[simp] theorem State.setBus_setQ : (s.setBus b x).setQ = s.setQ := rfl
@[simp] theorem State.setBus_passQ : (s.setBus b x).passQ = s.passQ := rfl
@[simp] theorem State.setBus_pollPos : (s.setBus b x).pollPos = s.pollPos := rfl
@[simp] theorem State.setBus_between : (s.setBus b x).between = s.between := rfl
@[simp] theorem State.setBus_probed : (s.setBus b x).probed = s.probed := rfl
@[simp] theorem State.setBus_window : (s.setBus b x).window = s.window := rfl
@[simp] theorem State.setBus_test : (s.setBus b x).test = s.test := rfl
@[simp] theorem State.setBus_presence : (s.setBus b x).presence = s.presence := rfl
@[simp] theorem State.setBus_census : (s.setBus b x).census = s.census := rfl
@[simp] theorem State.setBus_stalls : (s.setBus b x).stalls = s.stalls := rfl
@[simp] theorem State.setBus_site : (s.setBus b x).site = s.site := rfl
@[simp] theorem State.setBus_clock : (s.setBus b x).clock = s.clock := rfl
@[simp] theorem State.setBus_deps : (s.setBus b x).deps = s.deps := rfl
@[simp] theorem State.setBus_alloc : (s.setBus b x).alloc = s.alloc := rfl
@[simp] theorem State.setBus_pathSecond : (s.setBus b x).pathSecond = s.pathSecond := rfl
@[simp] theorem State.setBus_storage : (s.setBus b x).storage = s.storage := rfl
@[simp] theorem State.setBus_reserve : (s.setBus b x).reserve = s.reserve := rfl
@[simp] theorem State.setBus_events : (s.setBus b x).events = s.events := rfl
@[simp] theorem State.setBus_freeCount : (s.setBus b x).freeCount = s.freeCount := rfl
@[simp] theorem State.setBus_pending : (s.setBus b x).pending = s.pending := rfl

end setBus

section modBus

variable (s : State) (b : BusIx) (f : Bus → Bus)

@[simp] theorem State.modBus_plant : (s.modBus b f).plant = s.plant := rfl
@[simp] theorem State.modBus_fleet : (s.modBus b f).fleet = s.fleet := rfl
@[simp] theorem State.modBus_schedule : (s.modBus b f).schedule = s.schedule := rfl
@[simp] theorem State.modBus_grid : (s.modBus b f).grid = s.grid := rfl
@[simp] theorem State.modBus_policy : (s.modBus b f).policy = s.policy := rfl
@[simp] theorem State.modBus_lock : (s.modBus b f).lock = s.lock := rfl
@[simp] theorem State.modBus_configured : (s.modBus b f).configured = s.configured := rfl
@[simp] theorem State.modBus_resetCause : (s.modBus b f).resetCause = s.resetCause := rfl
@[simp] theorem State.modBus_superv : (s.modBus b f).superv = s.superv := rfl
@[simp] theorem State.modBus_office : (s.modBus b f).office = s.office := rfl
@[simp] theorem State.modBus_lineA : (s.modBus b f).lineA = s.lineA := rfl
@[simp] theorem State.modBus_lineB : (s.modBus b f).lineB = s.lineB := rfl
@[simp] theorem State.modBus_active : (s.modBus b f).active = s.active := rfl
@[simp] theorem State.modBus_setQ : (s.modBus b f).setQ = s.setQ := rfl
@[simp] theorem State.modBus_passQ : (s.modBus b f).passQ = s.passQ := rfl
@[simp] theorem State.modBus_pollPos : (s.modBus b f).pollPos = s.pollPos := rfl
@[simp] theorem State.modBus_between : (s.modBus b f).between = s.between := rfl
@[simp] theorem State.modBus_probed : (s.modBus b f).probed = s.probed := rfl
@[simp] theorem State.modBus_window : (s.modBus b f).window = s.window := rfl
@[simp] theorem State.modBus_test : (s.modBus b f).test = s.test := rfl
@[simp] theorem State.modBus_presence : (s.modBus b f).presence = s.presence := rfl
@[simp] theorem State.modBus_census : (s.modBus b f).census = s.census := rfl
@[simp] theorem State.modBus_stalls : (s.modBus b f).stalls = s.stalls := rfl
@[simp] theorem State.modBus_site : (s.modBus b f).site = s.site := rfl
@[simp] theorem State.modBus_clock : (s.modBus b f).clock = s.clock := rfl
@[simp] theorem State.modBus_deps : (s.modBus b f).deps = s.deps := rfl
@[simp] theorem State.modBus_alloc : (s.modBus b f).alloc = s.alloc := rfl
@[simp] theorem State.modBus_pathSecond : (s.modBus b f).pathSecond = s.pathSecond := rfl
@[simp] theorem State.modBus_storage : (s.modBus b f).storage = s.storage := rfl
@[simp] theorem State.modBus_reserve : (s.modBus b f).reserve = s.reserve := rfl
@[simp] theorem State.modBus_events : (s.modBus b f).events = s.events := rfl
@[simp] theorem State.modBus_freeCount : (s.modBus b f).freeCount = s.freeCount := rfl
@[simp] theorem State.modBus_pending : (s.modBus b f).pending = s.pending := rfl

end modBus

section modPres

variable (s : State) (d : DispIx) (f : PresenceRec → PresenceRec)

@[simp] theorem State.modPres_plant : (s.modPres d f).plant = s.plant := rfl
@[simp] theorem State.modPres_fleet : (s.modPres d f).fleet = s.fleet := rfl
@[simp] theorem State.modPres_schedule : (s.modPres d f).schedule = s.schedule := rfl
@[simp] theorem State.modPres_grid : (s.modPres d f).grid = s.grid := rfl
@[simp] theorem State.modPres_policy : (s.modPres d f).policy = s.policy := rfl
@[simp] theorem State.modPres_lock : (s.modPres d f).lock = s.lock := rfl
@[simp] theorem State.modPres_configured : (s.modPres d f).configured = s.configured := rfl
@[simp] theorem State.modPres_resetCause : (s.modPres d f).resetCause = s.resetCause := rfl
@[simp] theorem State.modPres_superv : (s.modPres d f).superv = s.superv := rfl
@[simp] theorem State.modPres_office : (s.modPres d f).office = s.office := rfl
@[simp] theorem State.modPres_lineA : (s.modPres d f).lineA = s.lineA := rfl
@[simp] theorem State.modPres_lineB : (s.modPres d f).lineB = s.lineB := rfl
@[simp] theorem State.modPres_active : (s.modPres d f).active = s.active := rfl
@[simp] theorem State.modPres_setQ : (s.modPres d f).setQ = s.setQ := rfl
@[simp] theorem State.modPres_passQ : (s.modPres d f).passQ = s.passQ := rfl
@[simp] theorem State.modPres_pollPos : (s.modPres d f).pollPos = s.pollPos := rfl
@[simp] theorem State.modPres_between : (s.modPres d f).between = s.between := rfl
@[simp] theorem State.modPres_probed : (s.modPres d f).probed = s.probed := rfl
@[simp] theorem State.modPres_window : (s.modPres d f).window = s.window := rfl
@[simp] theorem State.modPres_test : (s.modPres d f).test = s.test := rfl
@[simp] theorem State.modPres_census : (s.modPres d f).census = s.census := rfl
@[simp] theorem State.modPres_stalls : (s.modPres d f).stalls = s.stalls := rfl
@[simp] theorem State.modPres_buses : (s.modPres d f).buses = s.buses := rfl
@[simp] theorem State.modPres_site : (s.modPres d f).site = s.site := rfl
@[simp] theorem State.modPres_clock : (s.modPres d f).clock = s.clock := rfl
@[simp] theorem State.modPres_deps : (s.modPres d f).deps = s.deps := rfl
@[simp] theorem State.modPres_alloc : (s.modPres d f).alloc = s.alloc := rfl
@[simp] theorem State.modPres_pathSecond : (s.modPres d f).pathSecond = s.pathSecond := rfl
@[simp] theorem State.modPres_storage : (s.modPres d f).storage = s.storage := rfl
@[simp] theorem State.modPres_reserve : (s.modPres d f).reserve = s.reserve := rfl
@[simp] theorem State.modPres_events : (s.modPres d f).events = s.events := rfl
@[simp] theorem State.modPres_freeCount : (s.modPres d f).freeCount = s.freeCount := rfl
@[simp] theorem State.modPres_pending : (s.modPres d f).pending = s.pending := rfl

end modPres

section setLine

variable (s : State) (l : StallLine) (x : StallLineState)

@[simp] theorem State.setLine_plant : (s.setLine l x).plant = s.plant := by cases l <;> rfl
@[simp] theorem State.setLine_fleet : (s.setLine l x).fleet = s.fleet := by cases l <;> rfl
@[simp] theorem State.setLine_schedule : (s.setLine l x).schedule = s.schedule := by cases l <;> rfl
@[simp] theorem State.setLine_grid : (s.setLine l x).grid = s.grid := by cases l <;> rfl
@[simp] theorem State.setLine_policy : (s.setLine l x).policy = s.policy := by cases l <;> rfl
@[simp] theorem State.setLine_lock : (s.setLine l x).lock = s.lock := by cases l <;> rfl
@[simp] theorem State.setLine_configured : (s.setLine l x).configured = s.configured := by cases l <;> rfl
@[simp] theorem State.setLine_resetCause : (s.setLine l x).resetCause = s.resetCause := by cases l <;> rfl
@[simp] theorem State.setLine_superv : (s.setLine l x).superv = s.superv := by cases l <;> rfl
@[simp] theorem State.setLine_office : (s.setLine l x).office = s.office := by cases l <;> rfl
@[simp] theorem State.setLine_active : (s.setLine l x).active = s.active := by cases l <;> rfl
@[simp] theorem State.setLine_setQ : (s.setLine l x).setQ = s.setQ := by cases l <;> rfl
@[simp] theorem State.setLine_passQ : (s.setLine l x).passQ = s.passQ := by cases l <;> rfl
@[simp] theorem State.setLine_pollPos : (s.setLine l x).pollPos = s.pollPos := by cases l <;> rfl
@[simp] theorem State.setLine_between : (s.setLine l x).between = s.between := by cases l <;> rfl
@[simp] theorem State.setLine_probed : (s.setLine l x).probed = s.probed := by cases l <;> rfl
@[simp] theorem State.setLine_window : (s.setLine l x).window = s.window := by cases l <;> rfl
@[simp] theorem State.setLine_test : (s.setLine l x).test = s.test := by cases l <;> rfl
@[simp] theorem State.setLine_presence : (s.setLine l x).presence = s.presence := by cases l <;> rfl
@[simp] theorem State.setLine_census : (s.setLine l x).census = s.census := by cases l <;> rfl
@[simp] theorem State.setLine_stalls : (s.setLine l x).stalls = s.stalls := by cases l <;> rfl
@[simp] theorem State.setLine_buses : (s.setLine l x).buses = s.buses := by cases l <;> rfl
@[simp] theorem State.setLine_site : (s.setLine l x).site = s.site := by cases l <;> rfl
@[simp] theorem State.setLine_clock : (s.setLine l x).clock = s.clock := by cases l <;> rfl
@[simp] theorem State.setLine_deps : (s.setLine l x).deps = s.deps := by cases l <;> rfl
@[simp] theorem State.setLine_alloc : (s.setLine l x).alloc = s.alloc := by cases l <;> rfl
@[simp] theorem State.setLine_pathSecond : (s.setLine l x).pathSecond = s.pathSecond := by cases l <;> rfl
@[simp] theorem State.setLine_storage : (s.setLine l x).storage = s.storage := by cases l <;> rfl
@[simp] theorem State.setLine_reserve : (s.setLine l x).reserve = s.reserve := by cases l <;> rfl
@[simp] theorem State.setLine_events : (s.setLine l x).events = s.events := by cases l <;> rfl
@[simp] theorem State.setLine_freeCount : (s.setLine l x).freeCount = s.freeCount := by cases l <;> rfl
@[simp] theorem State.setLine_pending : (s.setLine l x).pending = s.pending := by cases l <;> rfl

end setLine

section modLine

variable (s : State) (l : StallLine) (f : StallLineState → StallLineState)

@[simp] theorem State.modLine_plant : (s.modLine l f).plant = s.plant := by cases l <;> rfl
@[simp] theorem State.modLine_fleet : (s.modLine l f).fleet = s.fleet := by cases l <;> rfl
@[simp] theorem State.modLine_schedule : (s.modLine l f).schedule = s.schedule := by cases l <;> rfl
@[simp] theorem State.modLine_grid : (s.modLine l f).grid = s.grid := by cases l <;> rfl
@[simp] theorem State.modLine_policy : (s.modLine l f).policy = s.policy := by cases l <;> rfl
@[simp] theorem State.modLine_lock : (s.modLine l f).lock = s.lock := by cases l <;> rfl
@[simp] theorem State.modLine_configured : (s.modLine l f).configured = s.configured := by cases l <;> rfl
@[simp] theorem State.modLine_resetCause : (s.modLine l f).resetCause = s.resetCause := by cases l <;> rfl
@[simp] theorem State.modLine_superv : (s.modLine l f).superv = s.superv := by cases l <;> rfl
@[simp] theorem State.modLine_office : (s.modLine l f).office = s.office := by cases l <;> rfl
@[simp] theorem State.modLine_active : (s.modLine l f).active = s.active := by cases l <;> rfl
@[simp] theorem State.modLine_setQ : (s.modLine l f).setQ = s.setQ := by cases l <;> rfl
@[simp] theorem State.modLine_passQ : (s.modLine l f).passQ = s.passQ := by cases l <;> rfl
@[simp] theorem State.modLine_pollPos : (s.modLine l f).pollPos = s.pollPos := by cases l <;> rfl
@[simp] theorem State.modLine_between : (s.modLine l f).between = s.between := by cases l <;> rfl
@[simp] theorem State.modLine_probed : (s.modLine l f).probed = s.probed := by cases l <;> rfl
@[simp] theorem State.modLine_window : (s.modLine l f).window = s.window := by cases l <;> rfl
@[simp] theorem State.modLine_test : (s.modLine l f).test = s.test := by cases l <;> rfl
@[simp] theorem State.modLine_presence : (s.modLine l f).presence = s.presence := by cases l <;> rfl
@[simp] theorem State.modLine_census : (s.modLine l f).census = s.census := by cases l <;> rfl
@[simp] theorem State.modLine_stalls : (s.modLine l f).stalls = s.stalls := by cases l <;> rfl
@[simp] theorem State.modLine_buses : (s.modLine l f).buses = s.buses := by cases l <;> rfl
@[simp] theorem State.modLine_site : (s.modLine l f).site = s.site := by cases l <;> rfl
@[simp] theorem State.modLine_clock : (s.modLine l f).clock = s.clock := by cases l <;> rfl
@[simp] theorem State.modLine_deps : (s.modLine l f).deps = s.deps := by cases l <;> rfl
@[simp] theorem State.modLine_alloc : (s.modLine l f).alloc = s.alloc := by cases l <;> rfl
@[simp] theorem State.modLine_pathSecond : (s.modLine l f).pathSecond = s.pathSecond := by cases l <;> rfl
@[simp] theorem State.modLine_storage : (s.modLine l f).storage = s.storage := by cases l <;> rfl
@[simp] theorem State.modLine_reserve : (s.modLine l f).reserve = s.reserve := by cases l <;> rfl
@[simp] theorem State.modLine_events : (s.modLine l f).events = s.events := by cases l <;> rfl
@[simp] theorem State.modLine_freeCount : (s.modLine l f).freeCount = s.freeCount := by cases l <;> rfl
@[simp] theorem State.modLine_pending : (s.modLine l f).pending = s.pending := by cases l <;> rfl

end modLine

section setTx

variable (s : State) (l : StallLine) (x : Option StallTx)

@[simp] theorem State.setTx_plant : (s.setTx l x).plant = s.plant := by cases l <;> rfl
@[simp] theorem State.setTx_fleet : (s.setTx l x).fleet = s.fleet := by cases l <;> rfl
@[simp] theorem State.setTx_schedule : (s.setTx l x).schedule = s.schedule := by cases l <;> rfl
@[simp] theorem State.setTx_grid : (s.setTx l x).grid = s.grid := by cases l <;> rfl
@[simp] theorem State.setTx_policy : (s.setTx l x).policy = s.policy := by cases l <;> rfl
@[simp] theorem State.setTx_lock : (s.setTx l x).lock = s.lock := by cases l <;> rfl
@[simp] theorem State.setTx_configured : (s.setTx l x).configured = s.configured := by cases l <;> rfl
@[simp] theorem State.setTx_resetCause : (s.setTx l x).resetCause = s.resetCause := by cases l <;> rfl
@[simp] theorem State.setTx_superv : (s.setTx l x).superv = s.superv := by cases l <;> rfl
@[simp] theorem State.setTx_office : (s.setTx l x).office = s.office := by cases l <;> rfl
@[simp] theorem State.setTx_active : (s.setTx l x).active = s.active := by cases l <;> rfl
@[simp] theorem State.setTx_setQ : (s.setTx l x).setQ = s.setQ := by cases l <;> rfl
@[simp] theorem State.setTx_passQ : (s.setTx l x).passQ = s.passQ := by cases l <;> rfl
@[simp] theorem State.setTx_pollPos : (s.setTx l x).pollPos = s.pollPos := by cases l <;> rfl
@[simp] theorem State.setTx_between : (s.setTx l x).between = s.between := by cases l <;> rfl
@[simp] theorem State.setTx_probed : (s.setTx l x).probed = s.probed := by cases l <;> rfl
@[simp] theorem State.setTx_window : (s.setTx l x).window = s.window := by cases l <;> rfl
@[simp] theorem State.setTx_test : (s.setTx l x).test = s.test := by cases l <;> rfl
@[simp] theorem State.setTx_presence : (s.setTx l x).presence = s.presence := by cases l <;> rfl
@[simp] theorem State.setTx_census : (s.setTx l x).census = s.census := by cases l <;> rfl
@[simp] theorem State.setTx_stalls : (s.setTx l x).stalls = s.stalls := by cases l <;> rfl
@[simp] theorem State.setTx_buses : (s.setTx l x).buses = s.buses := by cases l <;> rfl
@[simp] theorem State.setTx_site : (s.setTx l x).site = s.site := by cases l <;> rfl
@[simp] theorem State.setTx_clock : (s.setTx l x).clock = s.clock := by cases l <;> rfl
@[simp] theorem State.setTx_deps : (s.setTx l x).deps = s.deps := by cases l <;> rfl
@[simp] theorem State.setTx_alloc : (s.setTx l x).alloc = s.alloc := by cases l <;> rfl
@[simp] theorem State.setTx_pathSecond : (s.setTx l x).pathSecond = s.pathSecond := by cases l <;> rfl
@[simp] theorem State.setTx_storage : (s.setTx l x).storage = s.storage := by cases l <;> rfl
@[simp] theorem State.setTx_reserve : (s.setTx l x).reserve = s.reserve := by cases l <;> rfl
@[simp] theorem State.setTx_events : (s.setTx l x).events = s.events := by cases l <;> rfl
@[simp] theorem State.setTx_freeCount : (s.setTx l x).freeCount = s.freeCount := by cases l <;> rfl
@[simp] theorem State.setTx_pending : (s.setTx l x).pending = s.pending := by cases l <;> rfl

end setTx

section modSite

variable (s : State) (f : SiteMonitor → SiteMonitor)

@[simp] theorem State.modSite_plant : (s.modSite f).plant = s.plant := rfl
@[simp] theorem State.modSite_fleet : (s.modSite f).fleet = s.fleet := rfl
@[simp] theorem State.modSite_schedule : (s.modSite f).schedule = s.schedule := rfl
@[simp] theorem State.modSite_grid : (s.modSite f).grid = s.grid := rfl
@[simp] theorem State.modSite_policy : (s.modSite f).policy = s.policy := rfl
@[simp] theorem State.modSite_lock : (s.modSite f).lock = s.lock := rfl
@[simp] theorem State.modSite_configured : (s.modSite f).configured = s.configured := rfl
@[simp] theorem State.modSite_resetCause : (s.modSite f).resetCause = s.resetCause := rfl
@[simp] theorem State.modSite_superv : (s.modSite f).superv = s.superv := rfl
@[simp] theorem State.modSite_office : (s.modSite f).office = s.office := rfl
@[simp] theorem State.modSite_lineA : (s.modSite f).lineA = s.lineA := rfl
@[simp] theorem State.modSite_lineB : (s.modSite f).lineB = s.lineB := rfl
@[simp] theorem State.modSite_active : (s.modSite f).active = s.active := rfl
@[simp] theorem State.modSite_setQ : (s.modSite f).setQ = s.setQ := rfl
@[simp] theorem State.modSite_passQ : (s.modSite f).passQ = s.passQ := rfl
@[simp] theorem State.modSite_pollPos : (s.modSite f).pollPos = s.pollPos := rfl
@[simp] theorem State.modSite_between : (s.modSite f).between = s.between := rfl
@[simp] theorem State.modSite_probed : (s.modSite f).probed = s.probed := rfl
@[simp] theorem State.modSite_window : (s.modSite f).window = s.window := rfl
@[simp] theorem State.modSite_test : (s.modSite f).test = s.test := rfl
@[simp] theorem State.modSite_presence : (s.modSite f).presence = s.presence := rfl
@[simp] theorem State.modSite_census : (s.modSite f).census = s.census := rfl
@[simp] theorem State.modSite_stalls : (s.modSite f).stalls = s.stalls := rfl
@[simp] theorem State.modSite_buses : (s.modSite f).buses = s.buses := rfl
@[simp] theorem State.modSite_clock : (s.modSite f).clock = s.clock := rfl
@[simp] theorem State.modSite_deps : (s.modSite f).deps = s.deps := rfl
@[simp] theorem State.modSite_alloc : (s.modSite f).alloc = s.alloc := rfl
@[simp] theorem State.modSite_pathSecond : (s.modSite f).pathSecond = s.pathSecond := rfl
@[simp] theorem State.modSite_storage : (s.modSite f).storage = s.storage := rfl
@[simp] theorem State.modSite_reserve : (s.modSite f).reserve = s.reserve := rfl
@[simp] theorem State.modSite_events : (s.modSite f).events = s.events := rfl
@[simp] theorem State.modSite_freeCount : (s.modSite f).freeCount = s.freeCount := rfl
@[simp] theorem State.modSite_pending : (s.modSite f).pending = s.pending := rfl

end modSite

section modAct

variable (s : State) (f : Activation → Activation)

@[simp] theorem State.modAct_plant : (s.modAct f).plant = s.plant := rfl
@[simp] theorem State.modAct_fleet : (s.modAct f).fleet = s.fleet := rfl
@[simp] theorem State.modAct_schedule : (s.modAct f).schedule = s.schedule := rfl
@[simp] theorem State.modAct_grid : (s.modAct f).grid = s.grid := rfl
@[simp] theorem State.modAct_policy : (s.modAct f).policy = s.policy := rfl
@[simp] theorem State.modAct_lock : (s.modAct f).lock = s.lock := rfl
@[simp] theorem State.modAct_configured : (s.modAct f).configured = s.configured := rfl
@[simp] theorem State.modAct_resetCause : (s.modAct f).resetCause = s.resetCause := rfl
@[simp] theorem State.modAct_superv : (s.modAct f).superv = s.superv := rfl
@[simp] theorem State.modAct_office : (s.modAct f).office = s.office := rfl
@[simp] theorem State.modAct_lineA : (s.modAct f).lineA = s.lineA := rfl
@[simp] theorem State.modAct_lineB : (s.modAct f).lineB = s.lineB := rfl
@[simp] theorem State.modAct_active : (s.modAct f).active = s.active := rfl
@[simp] theorem State.modAct_setQ : (s.modAct f).setQ = s.setQ := rfl
@[simp] theorem State.modAct_passQ : (s.modAct f).passQ = s.passQ := rfl
@[simp] theorem State.modAct_pollPos : (s.modAct f).pollPos = s.pollPos := rfl
@[simp] theorem State.modAct_between : (s.modAct f).between = s.between := rfl
@[simp] theorem State.modAct_probed : (s.modAct f).probed = s.probed := rfl
@[simp] theorem State.modAct_window : (s.modAct f).window = s.window := rfl
@[simp] theorem State.modAct_test : (s.modAct f).test = s.test := rfl
@[simp] theorem State.modAct_presence : (s.modAct f).presence = s.presence := rfl
@[simp] theorem State.modAct_census : (s.modAct f).census = s.census := rfl
@[simp] theorem State.modAct_stalls : (s.modAct f).stalls = s.stalls := rfl
@[simp] theorem State.modAct_buses : (s.modAct f).buses = s.buses := rfl
@[simp] theorem State.modAct_site : (s.modAct f).site = s.site := rfl
@[simp] theorem State.modAct_clock : (s.modAct f).clock = s.clock := rfl
@[simp] theorem State.modAct_deps : (s.modAct f).deps = s.deps := rfl
@[simp] theorem State.modAct_alloc : (s.modAct f).alloc = s.alloc := rfl
@[simp] theorem State.modAct_pathSecond : (s.modAct f).pathSecond = s.pathSecond := rfl
@[simp] theorem State.modAct_storage : (s.modAct f).storage = s.storage := rfl
@[simp] theorem State.modAct_events : (s.modAct f).events = s.events := rfl
@[simp] theorem State.modAct_freeCount : (s.modAct f).freeCount = s.freeCount := rfl
@[simp] theorem State.modAct_pending : (s.modAct f).pending = s.pending := rfl

end modAct

section raise

variable (s : State) (k : EventKind) (x : Subject) (p : Int)

@[simp] theorem State.raise_plant : (s.raise k x p).plant = s.plant := rfl
@[simp] theorem State.raise_fleet : (s.raise k x p).fleet = s.fleet := rfl
@[simp] theorem State.raise_schedule : (s.raise k x p).schedule = s.schedule := rfl
@[simp] theorem State.raise_grid : (s.raise k x p).grid = s.grid := rfl
@[simp] theorem State.raise_policy : (s.raise k x p).policy = s.policy := rfl
@[simp] theorem State.raise_lock : (s.raise k x p).lock = s.lock := rfl
@[simp] theorem State.raise_configured : (s.raise k x p).configured = s.configured := rfl
@[simp] theorem State.raise_resetCause : (s.raise k x p).resetCause = s.resetCause := rfl
@[simp] theorem State.raise_superv : (s.raise k x p).superv = s.superv := rfl
@[simp] theorem State.raise_office : (s.raise k x p).office = s.office := rfl
@[simp] theorem State.raise_lineA : (s.raise k x p).lineA = s.lineA := rfl
@[simp] theorem State.raise_lineB : (s.raise k x p).lineB = s.lineB := rfl
@[simp] theorem State.raise_active : (s.raise k x p).active = s.active := rfl
@[simp] theorem State.raise_setQ : (s.raise k x p).setQ = s.setQ := rfl
@[simp] theorem State.raise_passQ : (s.raise k x p).passQ = s.passQ := rfl
@[simp] theorem State.raise_pollPos : (s.raise k x p).pollPos = s.pollPos := rfl
@[simp] theorem State.raise_between : (s.raise k x p).between = s.between := rfl
@[simp] theorem State.raise_probed : (s.raise k x p).probed = s.probed := rfl
@[simp] theorem State.raise_window : (s.raise k x p).window = s.window := rfl
@[simp] theorem State.raise_test : (s.raise k x p).test = s.test := rfl
@[simp] theorem State.raise_presence : (s.raise k x p).presence = s.presence := rfl
@[simp] theorem State.raise_census : (s.raise k x p).census = s.census := rfl
@[simp] theorem State.raise_stalls : (s.raise k x p).stalls = s.stalls := rfl
@[simp] theorem State.raise_buses : (s.raise k x p).buses = s.buses := rfl
@[simp] theorem State.raise_site : (s.raise k x p).site = s.site := rfl
@[simp] theorem State.raise_clock : (s.raise k x p).clock = s.clock := rfl
@[simp] theorem State.raise_deps : (s.raise k x p).deps = s.deps := rfl
@[simp] theorem State.raise_alloc : (s.raise k x p).alloc = s.alloc := rfl
@[simp] theorem State.raise_pathSecond : (s.raise k x p).pathSecond = s.pathSecond := rfl
@[simp] theorem State.raise_storage : (s.raise k x p).storage = s.storage := rfl
@[simp] theorem State.raise_reserve : (s.raise k x p).reserve = s.reserve := rfl
@[simp] theorem State.raise_freeCount : (s.raise k x p).freeCount = s.freeCount := rfl
@[simp] theorem State.raise_pending : (s.raise k x p).pending = s.pending := rfl

end raise

/-! ## Reading back what was written -/

@[simp] theorem State.stall_setStall (s : State) (i j : StallIx) (x : Stall) :
    (s.setStall i x).stall j = if i = j then x else s.stall j := by
  simp only [State.stall, State.setStall, Vector.getElem_set, Fin.ext_iff]

@[simp] theorem State.stall_modStall (s : State) (i j : StallIx) (f : Stall → Stall) :
    (s.modStall i f).stall j = if i = j then f (s.stall j) else s.stall j := by
  by_cases h : i = j <;> simp [State.modStall, h]

@[simp] theorem State.bus_setBus (s : State) (b c : BusIx) (x : Bus) :
    (s.setBus b x).bus c = if b = c then x else s.bus c := by
  simp only [State.bus, State.setBus, Vector.getElem_set, Fin.ext_iff]

@[simp] theorem State.bus_modBus (s : State) (b c : BusIx) (f : Bus → Bus) :
    (s.modBus b f).bus c = if b = c then f (s.bus c) else s.bus c := by
  by_cases h : b = c <;> simp [State.modBus, h]

@[simp] theorem State.bus_setStall (s : State) (i : StallIx) (x : Stall) (b : BusIx) :
    (s.setStall i x).bus b = s.bus b := rfl

@[simp] theorem State.bus_modStall (s : State) (i : StallIx) (f : Stall → Stall) (b : BusIx) :
    (s.modStall i f).bus b = s.bus b := rfl

@[simp] theorem State.stall_setBus (s : State) (b : BusIx) (x : Bus) (i : StallIx) :
    (s.setBus b x).stall i = s.stall i := rfl

@[simp] theorem State.stall_modBus (s : State) (b : BusIx) (f : Bus → Bus) (i : StallIx) :
    (s.modBus b f).stall i = s.stall i := rfl

@[simp] theorem State.pres_modPres (s : State) (d e : DispIx) (f : PresenceRec → PresenceRec) :
    (s.modPres d f).pres e = if d = e then f (s.pres e) else s.pres e := by
  by_cases h : d = e
  · subst h; simp [State.pres, State.modPres]
  · have : d.val ≠ e.val := fun c => h (Fin.ext c)
    simp [State.pres, State.modPres, h, this]

@[simp] theorem State.line_setLine (s : State) (l m : StallLine) (x : StallLineState) :
    (s.setLine l x).line m = if l = m then x else s.line m := by
  cases l <;> cases m <;> rfl

@[simp] theorem State.line_modLine (s : State) (l m : StallLine) (f : StallLineState → StallLineState) :
    (s.modLine l f).line m = if l = m then f (s.line m) else s.line m := by
  cases l <;> cases m <;> rfl

@[simp] theorem State.stall_raise (s : State) (k : EventKind) (x : Subject) (p : Int) (i : StallIx) :
    (s.raise k x p).stall i = s.stall i := rfl

@[simp] theorem State.bus_raise (s : State) (k : EventKind) (x : Subject) (p : Int) (b : BusIx) :
    (s.raise k x p).bus b = s.bus b := rfl

@[simp] theorem State.line_raise (s : State) (k : EventKind) (x : Subject) (p : Int) (l : StallLine) :
    (s.raise k x p).line l = s.line l := by cases l <;> rfl

@[simp] theorem State.pres_raise (s : State) (k : EventKind) (x : Subject) (p : Int) (d : DispIx) :
    (s.raise k x p).pres d = s.pres d := rfl

@[simp] theorem State.modSite_site (s : State) (f : SiteMonitor → SiteMonitor) : (s.modSite f).site = f s.site := rfl

end Sys2Proof.Machine
end

