-- ==== Sys2Proof/Laws/Depot.lean ====
section
/-! SUPPORT. What the depot's shared operations (07 to 09, 05, 03) can do: each changes stall and bus records,
departures, the setpoint queue, storage, the reserve, the ramp ceiling and the event queue, keeps those safe, and leaves
everything else as it was. One lemma per operation; callers cite it and do not unfold the operation. -/

-- Elaborated one after another, these proofs need one thread's memory.
set_option Elab.async false

namespace Sys2Proof.Machine

open Sys2Proof

/-- What every operation of the depot leaves as it was, and what it keeps safe. -/
structure Outer (s t : State) : Prop where
  plant      : t.plant = s.plant
  fleet      : t.fleet = s.fleet
  schedule   : t.schedule = s.schedule
  grid       : t.grid = s.grid
  policy     : t.policy = s.policy
  lock       : t.lock = s.lock
  configured : t.configured = s.configured
  resetCause : t.resetCause = s.resetCause
  superv     : t.superv = s.superv
  office     : t.office = s.office
  lineA      : t.lineA = s.lineA
  lineB      : t.lineB = s.lineB
  active     : t.active = s.active
  passQ      : t.passQ = s.passQ
  pollPos    : t.pollPos = s.pollPos
  between    : t.between = s.between
  probed     : t.probed = s.probed
  window     : t.window = s.window
  test       : t.test = s.test
  presence   : t.presence = s.presence
  census     : t.census = s.census
  site       : t.site = s.site
  clock      : t.clock = s.clock
  pathSecond : t.pathSecond = s.pathSecond
  freeCount  : t.freeCount = s.freeCount
  pending    : t.pending = s.pending
  remaining  : t.alloc.remaining = s.alloc.remaining
  roundCount : t.alloc.roundCount = s.alloc.roundCount
  record     : t.alloc.record = s.alloc.record
  lawful     : (∀ i, (s.stall i).Lawful) → ∀ i, (t.stall i).Lawful
  ordered    : QueueOrdered s.setQ → QueueOrdered t.setQ
  bounded    : s.events.queue.length ≤ 64 → t.events.queue.length ≤ 64

theorem Outer.keepsOutside {s t : State} (h : Outer s t) : KeepsOutside s t := by
  apply State.ext
  case alloc =>
    show t.alloc = { s.alloc with ramp := t.alloc.ramp }
    dsimp only
    rw [← h.remaining, ← h.roundCount, ← h.record]
  all_goals first | rfl | (cases h; assumption)

theorem Outer.refl (s : State) : Outer s s := by
  constructor <;> first | rfl | exact id

theorem Outer.trans {s t u : State} (h : Outer s t) (k : Outer t u) : Outer s u where
  plant := k.plant.trans h.plant
  fleet := k.fleet.trans h.fleet
  schedule := k.schedule.trans h.schedule
  grid := k.grid.trans h.grid
  policy := k.policy.trans h.policy
  lock := k.lock.trans h.lock
  configured := k.configured.trans h.configured
  resetCause := k.resetCause.trans h.resetCause
  superv := k.superv.trans h.superv
  office := k.office.trans h.office
  lineA := k.lineA.trans h.lineA
  lineB := k.lineB.trans h.lineB
  active := k.active.trans h.active
  passQ := k.passQ.trans h.passQ
  pollPos := k.pollPos.trans h.pollPos
  between := k.between.trans h.between
  probed := k.probed.trans h.probed
  window := k.window.trans h.window
  test := k.test.trans h.test
  presence := k.presence.trans h.presence
  census := k.census.trans h.census
  site := k.site.trans h.site
  clock := k.clock.trans h.clock
  pathSecond := k.pathSecond.trans h.pathSecond
  freeCount := k.freeCount.trans h.freeCount
  pending := k.pending.trans h.pending
  remaining := k.remaining.trans h.remaining
  roundCount := k.roundCount.trans h.roundCount
  record := k.record.trans h.record
  lawful := fun p => k.lawful (h.lawful p)
  ordered := fun p => k.ordered (h.ordered p)
  bounded := fun p => k.bounded (h.bounded p)

/-- An operation applied at each of a list stays inside the depot when each application does. -/
theorem Outer.each {α : Type} {s u : State} (f : State → α → State) (hf : ∀ s a, Outer s (f s a)) (h : Outer s u)
    (is : List α) : Outer s (u.each is f) := by
  unfold State.each
  induction is generalizing u with
  | nil => exact h
  | cons a is ih => exact ih (h.trans (hf u a))

theorem SameSession.refl (x : Stall) : SameSession x x := by constructor <;> rfl

theorem SameSession.trans {x y z : Stall} (h : SameSession x y) (k : SameSession y z) : SameSession x z where
  inService := k.inService.trans h.inService
  occ := k.occ.trans h.occ
  fresh := k.fresh.trans h.fresh
  age := k.age.trans h.age
  bus := k.bus.trans h.bus
  fleetNo := k.fleetNo.trans h.fleetNo
  plugged := k.plugged.trans h.plugged
  power := k.power.trans h.power
  fault := k.fault.trans h.fault
  baseline := k.baseline.trans h.baseline
  residue := k.residue.trans h.residue
  partner := k.partner.trans h.partner
  grant := k.grant.trans h.grant
  condGrant := k.condGrant.trans h.condGrant

/-- What the operations of 05 and 07 to 09 leave as it was besides: the Session Table's records. -/
structure Inner (s t : State) : Prop extends Outer s t where
  session : ∀ i, SameSession (s.stall i) (t.stall i)
  buses   : ∀ b, SameBus (s.bus b) (t.bus b)

theorem Inner.refl (s : State) : Inner s s := ⟨.refl s, fun _ => .refl _, fun _ => ⟨rfl, rfl, rfl⟩⟩

theorem Inner.trans {s t u : State} (h : Inner s t) (k : Inner t u) : Inner s u where
  toOuter := h.toOuter.trans k.toOuter
  session := fun i => (h.session i).trans (k.session i)
  buses := fun b => ⟨(k.buses b).energy.trans (h.buses b).energy, (k.buses b).carried.trans (h.buses b).carried,
    (k.buses b).stall.trans (h.buses b).stall⟩

/-- An operation applied at each of a list stays inside the depot when each application does. -/
theorem Inner.each {α : Type} {s u : State} (f : State → α → State) (hf : ∀ s a, Inner s (f s a)) (h : Inner s u)
    (is : List α) : Inner s (u.each is f) := by
  unfold State.each
  induction is generalizing u with
  | nil => exact h
  | cons a is ih => exact ih (h.trans (hf u a))

/-! ## The event queue (R177, R178) -/

theorem testBatch_queue (e : EventQueue) (n : Nat) : (e.testBatch n).queue = e.queue := by
  unfold EventQueue.testBatch; split <;> rfl

theorem join_queue (e : EventQueue) (r : EventRec) (a b : Nat) : (e.join r a b).queue = e.queue ++ [⟨r, false⟩] := by
  unfold EventQueue.join
  split
  · rfl
  · rw [testBatch_queue]

theorem removeOldestRoutine_length (q : List QueuedRec) (g : QueuedRec) (rest : List QueuedRec)
    (h : removeOldestRoutine q = some (g, rest)) : rest.length + 1 = q.length := by
  induction q generalizing g rest with
  | nil => cases h
  | cons a q ih =>
    unfold removeOldestRoutine at h
    split at h
    · cases h; rfl
    · simp only [Option.map_eq_some_iff] at h
      obtain ⟨⟨x, y⟩, hx, hy⟩ := h
      cases hy
      simp [ih _ _ hx]

/-- A record offered leaves at most 64 in the queue (R177). -/
theorem offer_bounded (e : EventQueue) (r : EventRec) (a b : Nat) (h : e.queue.length ≤ 64) :
    (e.offer r a b).queue.length ≤ 64 := by
  unfold EventQueue.offer
  split
  · next hlt => rw [join_queue]; simp [eventMax] at *; omega
  · split
    · exact h
    · split
      · exact h
      · next g rest hr =>
        have := removeOldestRoutine_length _ _ _ hr
        have k : ∀ e : EventQueue, e.stopIfEmpty.queue = e.queue := by
          intro e; unfold EventQueue.stopIfEmpty; split <;> rfl
        split <;> simp [k] <;> omega

theorem raise_outer (s : State) (k : EventKind) (x : Subject) (p : Int) : Outer s (s.raise k x p) := by
  constructor
  case bounded => exact offer_bounded _ _ _ _
  all_goals first | rfl | exact id

theorem raise_inner (s : State) (k : EventKind) (x : Subject) (p : Int) : Inner s (s.raise k x p) :=
  ⟨raise_outer s k x p, fun _ => .refl _, fun _ => ⟨rfl, rfl, rfl⟩⟩

/-! ## Stall and bus records -/

theorem setStall_outer (s : State) (i : StallIx) (x : Stall) (h : (s.stall i).Lawful → x.Lawful) :
    Outer s (s.setStall i x) := by
  constructor
  case lawful =>
    intro p j
    rw [State.stall_setStall]
    split
    · exact h (p i)
    · exact p j
  all_goals first | rfl | exact id

theorem setStall_inner (s : State) (i : StallIx) (x : Stall) (h : (s.stall i).Lawful → x.Lawful)
    (k : SameSession (s.stall i) x) : Inner s (s.setStall i x) := by
  refine ⟨setStall_outer s i x h, fun j => ?_, fun _ => ⟨rfl, rfl, rfl⟩⟩
  rw [State.stall_setStall]
  split
  · next e => subst e; exact k
  · exact .refl _

theorem modStall_outer (s : State) (i : StallIx) (f : Stall → Stall) (h : ∀ x : Stall, (f x).sp = x.sp)
    (g : ∀ x : Stall, (f x).grant = x.grant := by intro _; rfl) :
    Outer s (s.modStall i f) :=
  setStall_outer s i _ fun p => ⟨by rw [h]; exact p.oneWay, by rw [h, g]; exact p.granted⟩

theorem modStall_inner (s : State) (i : StallIx) (f : Stall → Stall) (h : ∀ x : Stall, (f x).sp = x.sp)
    (k : ∀ x : Stall, SameSession x (f x)) : Inner s (s.modStall i f) :=
  setStall_inner s i _ (fun p => ⟨by rw [h]; exact p.oneWay, by rw [h, (k _).grant]; exact p.granted⟩) (k _)

theorem modBus_outer (s : State) (b : BusIx) (f : Bus → Bus) : Outer s (s.modBus b f) := by
  constructor <;> first | rfl | exact id

theorem modBus_inner (s : State) (b : BusIx) (n : Nat) : Inner s (s.modBus b fun x => { x with lendable := n }) := by
  refine ⟨modBus_outer s b _, fun _ => .refl _, fun c => ?_⟩
  rw [State.bus_modBus]
  split
  · next e => subst e; exact ⟨rfl, rfl, rfl⟩
  · exact ⟨rfl, rfl, rfl⟩

/-- Every stall is replaced by one whose setpoint in force is as it was. -/
theorem stalls_outer (s : State) (f : StallIx → Stall) (h : ∀ i, (f i).sp = (s.stall i).sp)
    (g : ∀ i, (f i).grant = (s.stall i).grant := by intro _; rfl) :
    Outer s { s with stalls := tab f } := by
  constructor
  case lawful =>
    intro p i
    refine ⟨?_, ?_⟩
    · simpa [State.stall, h] using (p i).oneWay
    · simpa [State.stall, h, g] using (p i).granted
  all_goals first | rfl | exact id

/-! ## The setpoint queue (R26) -/

theorem once_apart {q : List SetEntry} (h : q.Pairwise fun a b => a.stall ≠ b.stall) {a b : SetEntry}
    (ha : a ∈ q) (hb : b ∈ q) (c : a ≠ b) : a.stall ≠ b.stall := by
  induction h with
  | nil => cases ha
  | cons hx _ ih =>
    rcases List.mem_cons.mp ha with rfl | ha'
    · rcases List.mem_cons.mp hb with rfl | hb'
      · exact absurd rfl c
      · exact hx b hb'
    · rcases List.mem_cons.mp hb with rfl | hb'
      · exact (hx a ha').symm
      · exact ih ha' hb'

theorem placeReserve_ordered (q : List SetEntry) (e : SetEntry) (he : e.reserve = true)
    (hs : ∀ x ∈ q, x.stall ≠ e.stall) (h : QueueOrdered q) : QueueOrdered (placeReserve q e) := by
  have m : ∀ x ∈ q.filter (·.reserve), x ∈ q ∧ x.reserve = true := fun x hx => List.mem_filter.mp hx
  have n : ∀ x ∈ q.filter (fun x => !x.reserve), x ∈ q ∧ x.reserve = false := by
    intro x hx; have := List.mem_filter.mp hx; simpa using this
  unfold placeReserve
  constructor
  · rw [List.pairwise_append, List.pairwise_append]
    refine ⟨⟨h.once.filter _, List.pairwise_singleton _ _, ?_⟩, h.once.filter _, ?_⟩
    · intro a ha b hb
      simp only [List.mem_singleton] at hb
      subst hb
      exact hs a (m a ha).1
    · intro a ha b hb
      rcases List.mem_append.mp ha with ha | ha
      · intro hab
        have ha' := m a ha
        have hb' := n b hb
        have c : a ≠ b := fun c => by subst c; simp_all
        exact once_apart h.once ha'.1 hb'.1 c hab
      · simp only [List.mem_singleton] at ha
        subst ha
        exact (hs b (n b hb).1).symm
  · rw [List.pairwise_append, List.pairwise_append]
    refine ⟨⟨h.first.filter _, List.pairwise_singleton _ _, ?_⟩, h.first.filter _, ?_⟩
    · intro a ha b _ _
      exact (m a ha).2
    · intro a ha b hb hr
      have := (n b hb).2
      simp_all

/-- A posting keeps one entry per stall and the reserve group first (R26). -/
theorem postEntry_ordered (q : List SetEntry) (i : StallIx) (mark : Bool) (h : QueueOrdered q) :
    QueueOrdered (postEntry q i mark) := by
  unfold postEntry
  split
  · next hn =>
    have hs : ∀ x ∈ q, x.stall ≠ i := by
      intro x hx
      have := List.find?_eq_none.mp hn x hx
      simpa using this
    split
    · exact placeReserve_ordered q _ rfl hs h
    · constructor
      · rw [List.pairwise_append]
        exact ⟨h.once, List.pairwise_singleton _ _, fun a ha b hb => by simp at hb; subst hb; exact hs a ha⟩
      · rw [List.pairwise_append]
        exact ⟨h.first, List.pairwise_singleton _ _, fun a _ b hb hr => by simp at hb; subst hb; simp at hr⟩
  · split
    · refine placeReserve_ordered _ _ rfl ?_ ⟨h.once.filter _, h.first.filter _⟩
      intro x hx
      simpa using (List.mem_filter.mp hx).2
    · constructor
      · rw [List.pairwise_map]
        exact h.once.imp fun {a b} hab => by split <;> split <;> exact hab
      · rw [List.pairwise_map]
        exact h.first.imp fun {a b} hab => by split <;> split <;> exact hab

/-! ## The Setpoint Path (07) -/

/-- A setpoint composed from a stall's fields is lawful (R112, R114). -/
theorem composed_lawful (x : Stall) : Stall.Lawful { x with sp := x.composed } := by
  constructor
  · by_cases h : x.handed = 0
    · exact .inr h
    · exact .inl (by simp [Stall.composed, h])
  · show x.composed.charge ≤ x.grant
    unfold Stall.composed
    dsimp only
    split
    · split <;> omega
    · omega

theorem post_inner (s : State) (i : StallIx) (m : Bool) : Inner s (s.post i m) := by
  have h := modStall_inner s i (fun x => { x with lastPosted := s.pathSecond }) (fun _ => rfl)
    (fun _ => by constructor <;> rfl)
  constructor
  case session => exact h.session
  case buses => exact h.buses
  case toOuter =>
    constructor
    case ordered => exact postEntry_ordered _ _ _
    case lawful => exact h.lawful
    all_goals first | rfl | exact id

theorem recompute_inner (s : State) (i : StallIx) (m : Bool) : Inner s (s.recompute i m) := by
  unfold State.recompute
  dsimp only
  split
  · exact .refl s
  · refine .trans ?_ (post_inner _ _ _)
    exact setStall_inner _ _ { s.stall i with sp := (s.stall i).composed } (fun _ => composed_lawful _)
      (by constructor <;> rfl)

theorem handDischarge_inner (s : State) (i : StallIx) (e : Option Owner) : Inner s (s.handDischarge i e) := by
  unfold State.handDischarge
  refine .trans ?_ (recompute_inner _ _ _)
  exact setStall_inner _ _ _ (fun h => ⟨h.oneWay, h.granted⟩) (by constructor <;> rfl)

theorem reserveTake_inner (s : State) (i : StallIx) : Inner s (s.reserveTake i) := by
  unfold State.reserveTake
  refine .trans ?_ (recompute_inner _ _ _)
  refine modStall_inner _ _ _ ?_ ?_
  · exact fun _ => rfl
  · exact fun _ => by constructor <;> rfl

theorem reserveReturn_inner (s : State) (i : StallIx) : Inner s (s.reserveReturn i) := by
  unfold State.reserveReturn
  refine .trans ?_ (recompute_inner _ _ _)
  refine modStall_inner _ _ _ ?_ ?_
  · exact fun _ => rfl
  · exact fun _ => by constructor <;> rfl

theorem sessionStart_inner (s : State) (i : StallIx) : Inner s (s.sessionStart i) := by
  unfold State.sessionStart
  refine .trans ?_ (post_inner _ _ _)
  exact setStall_inner _ _ { s.stall i with sp := (s.stall i).composed } (fun _ => composed_lawful _)
    (by constructor <;> rfl)

theorem sessionEnd_inner (s : State) (i : StallIx) : Inner s (s.sessionEnd i) := by
  unfold State.sessionEnd
  refine .trans ?_ (post_inner _ _ _)
  exact setStall_inner _ _ _ (fun _ => ⟨.inl rfl, Nat.zero_le _⟩) (by constructor <;> rfl)

/-! ## The Discharge Coordinator (08) -/

theorem endDischarge_inner (s : State) (i : StallIx) : Inner s (s.endDischarge i) := by
  unfold State.endDischarge
  refine .trans ?_ (handDischarge_inner _ _ _)
  refine modStall_inner _ _ _ ?_ ?_
  · exact fun _ => rfl
  · exact fun _ => by constructor <;> rfl

theorem setDischarge_inner (s : State) (i : StallIx) (o : Owner) (n : Nat) : Inner s (s.setDischarge i o n) := by
  unfold State.setDischarge
  refine .trans ?_ (handDischarge_inner _ _ _)
  refine modStall_inner _ _ _ ?_ ?_
  · exact fun _ => rfl
  · exact fun _ => by constructor <;> rfl

theorem endOwned_inner (s : State) (o : Owner) : Inner s (s.endOwned o) := by
  unfold State.endOwned
  refine .each _ (fun s i => ?_) (.refl s) _
  split
  · exact endDischarge_inner s i
  · exact .refl s

theorem applySpread_inner (s : State) (o : Owner) (ps : List (StallIx × Nat)) : Inner s (s.applySpread o ps) := by
  unfold State.applySpread
  refine .each _ (fun s p => ?_) (.each _ (fun s i => ?_) (.refl s) _) _
  · split
    · exact .refl s
    · exact setDischarge_inner s _ _ _
  · split
    · exact endDischarge_inner s i
    · exact .refl s

theorem spread_inner (s : State) (o : Owner) (n : Nat) : Inner s (s.spread o n).1 := applySpread_inner s o _

theorem modAct_inner (s : State) (f : Activation → Activation) : Inner s (s.modAct f) := by
  refine ⟨?_, fun _ => .refl _, fun _ => ⟨rfl, rfl, rfl⟩⟩
  constructor <;> first | rfl | exact id

theorem setStorageRec_inner (s : State) (x : Storage) : Inner s { s with storage := x } := by
  refine ⟨?_, fun _ => .refl _, fun _ => ⟨rfl, rfl, rfl⟩⟩
  constructor <;> first | rfl | exact id

theorem setReserveRec_inner (s : State) (x : ReserveCtl) : Inner s { s with reserve := x } := by
  refine ⟨?_, fun _ => .refl _, fun _ => ⟨rfl, rfl, rfl⟩⟩
  constructor <;> first | rfl | exact id

theorem reserveSpread_inner (s : State) : Inner s s.reserveSpread := by
  unfold State.reserveSpread
  split
  · dsimp only
    split
    · exact ((spread_inner s _ _).trans (modAct_inner _ _)).trans (raise_inner _ _ _ _)
    · exact (spread_inner s _ _).trans (modAct_inner _ _)
  · exact .refl s

theorem setStorage_inner (s : State) (x : StorageState) : Inner s (s.setStorage x) := setStorageRec_inner s _

theorem examineStorage_inner (s : State) : Inner s s.examineStorage := by
  unfold State.examineStorage
  split
  · split
    · exact .refl s
    · exact setStorage_inner s _
    · exact ((endOwned_inner s _).trans (setStorage_inner _ _)).trans (raise_inner _ _ _ _)
  · split
    · exact setStorage_inner s _
    · exact .refl s

theorem testHoldback_inner (s : State) : Inner s s.testHoldback := by
  unfold State.testHoldback
  split
  · exact ((endOwned_inner s _).trans (setStorage_inner _ _)).trans (raise_inner _ _ _ _)
  · exact .refl s

theorem storageSpread_inner (s : State) (n : Nat) : Inner s (s.storageSpread n) :=
  (spread_inner s .storage n).trans (setStorageRec_inner _ _)

theorem respreadStorage_inner (s : State) (n : Nat) : Inner s (s.respreadStorage n) := by
  unfold State.respreadStorage
  dsimp only
  split
  · exact ((storageSpread_inner s n).trans (setStorage_inner _ _)).trans (raise_inner _ _ _ _)
  · exact storageSpread_inner s n

theorem storageEnded_inner (s : State) : Inner s s.storageEnded := by
  unfold State.storageEnded
  dsimp only
  split
  · exact (testHoldback_inner s).trans (respreadStorage_inner _ _)
  · exact testHoldback_inner s

theorem storageSample_inner (s : State) : Inner s s.storageSample := by
  unfold State.storageSample
  split
  · exact .refl s
  · dsimp only
    split
    · split
      · exact ((storageSpread_inner s _).trans (setStorageRec_inner _ _)).trans (raise_inner _ _ _ _)
      · exact storageSpread_inner s _
    · exact .refl s
  · dsimp only
    split
    · split
      · exact (((testHoldback_inner s).trans (endOwned_inner _ _)).trans (setStorage_inner _ _)).trans
          (raise_inner _ _ _ _)
      · split
        · exact (testHoldback_inner s).trans (respreadStorage_inner _ _)
        · exact testHoldback_inner s
    · exact testHoldback_inner s

theorem dropDischarge_inner (s : State) (i : StallIx) : Inner s (s.dropDischarge i) := by
  unfold State.dropDischarge
  split
  · exact .refl s
  · exact (endDischarge_inner s i).trans (reserveSpread_inner _)
  · exact (endDischarge_inner s i).trans (storageEnded_inner _)

theorem reeval_inner (s : State) (b : BusIx) : Inner s (s.reeval b) := by
  unfold State.reeval
  dsimp only
  have h : Inner s (s.modBus b fun x => { x with lendable := s.lendableNow b }) := modBus_inner s b _
  have k : Inner s (match (s.bus b).stall with
      | none => s.modBus b fun x => { x with lendable := s.lendableNow b }
      | some i =>
        if s.lendableNow b = 0 then (s.modBus b fun x => { x with lendable := s.lendableNow b }).dropDischarge i
        else if (s.bus b).lendable = 0 then
          (s.modBus b fun x => { x with lendable := s.lendableNow b }).reserveSpread
        else s.modBus b fun x => { x with lendable := s.lendableNow b }) := by
    split
    · exact h
    · split
      · exact h.trans (dropDischarge_inner _ _)
      · split
        · exact h.trans (reserveSpread_inner _)
        · exact h
  split
  · exact k
  · exact k.trans (testHoldback_inner _)

theorem reevalAll_inner (s : State) : Inner s s.reevalAll := .each _ reeval_inner (.refl s) _

theorem lowerDischarge_inner (s : State) (p : StallIx × Nat) : Inner s (s.lowerDischarge p) := by
  unfold State.lowerDischarge
  split
  · exact endDischarge_inner s _
  · refine .trans ?_ (handDischarge_inner _ _ _)
    refine modStall_inner _ _ _ ?_ ?_
    · exact fun _ => rfl
    · exact fun _ => by constructor <;> rfl

theorem checkLimits_inner (s : State) (ds : List DispIx) : Inner s (s.checkLimits ds) := by
  unfold State.checkLimits
  dsimp only
  have h := Inner.each (fun s _ => s.reserveSpread) (fun s (_ : StallIx × Nat) => reserveSpread_inner s)
    (Inner.each State.lowerDischarge lowerDischarge_inner (.refl s) (s.overLimit ds))
    ((s.overLimit ds).filter fun p => (s.stall p.1).owner = some .reserve)
  split
  · exact h.trans (storageEnded_inner _)
  · exact h

/-! ## The Reserve Controller (09) -/

theorem armingEvent_inner (s : State) (a : ReserveState) (b c : Option WinIx) (d : ReserveState) :
    Inner s (s.armingEvent a b c d) := by
  unfold State.armingEvent
  split
  · exact raise_inner _ _ _ _
  · exact raise_inner _ _ _ _
  · split
    · exact raise_inner _ _ _ _
    · exact .refl s
  · exact .refl s

theorem armingEval_inner (s : State) : Inner s s.armingEval := by
  unfold State.armingEval
  dsimp only
  split
  · exact .refl s
  · exact (((setReserveRec_inner s _).trans (armingEvent_inner _ _ _ _ _)).trans (examineStorage_inner _)).trans
      (testHoldback_inner _)

theorem activationSpread_inner (s : State) (a : Activation) : Inner s (s.activationSpread a).1 := by
  unfold State.activationSpread
  split
  · exact (spread_inner s _ _).trans (modAct_inner _ _)
  · exact .refl s

theorem activate_inner (s : State) (t : Trigger) (id : Option Nat) (q : Nat) (w : WinIx) :
    Inner s (s.activate t id q w) := by
  unfold State.activate
  dsimp only
  have h : Inner s ((((s.fillActivation t id q w).examineStorage).each (s.stallsToTake.map (·.1))
      State.reserveTake).activationSpread (s.newActivation t id q w)).1 :=
    (Inner.each State.reserveTake reserveTake_inner ((setReserveRec_inner s _).trans (examineStorage_inner _))
      _).trans (activationSpread_inner _ _)
  split
  · exact (h.trans (raise_inner _ _ _ _)).trans (raise_inner _ _ _ _)
  · exact h.trans (raise_inner _ _ _ _)

theorem retarget_inner (s : State) (q : Nat) : Inner s (s.retarget q) := by
  unfold State.retarget
  split
  · exact ((modAct_inner s _).trans (raise_inner _ _ _ _)).trans (reserveSpread_inner _)
  · exact .refl s

theorem setHeld_inner (s : State) (h : List (StallIx × Nat)) : Inner s (s.setHeld h) := setReserveRec_inner s _

theorem reserveProtected_inner (s : State) (i : StallIx) : Inner s (s.reserveProtected i) := by
  unfold State.reserveProtected
  split
  · dsimp only
    split
    · split
      · exact (((setHeld_inner s _).trans (modAct_inner _ _)).trans (reserveReturn_inner _ _)).trans
          (reserveSpread_inner _)
      · exact .refl s
    · split
      · exact (((setHeld_inner s _).trans (modAct_inner _ _)).trans (reserveTake_inner _ _)).trans
          (reserveSpread_inner _)
      · exact .refl s
  · exact .refl s

theorem reserveSessionBegins_inner (s : State) (i : StallIx) : Inner s (s.reserveSessionBegins i) := by
  unfold State.reserveSessionBegins
  split
  · exact (setHeld_inner s _).trans (reserveTake_inner _ _)
  · exact .refl s

theorem reserveSessionEnds_inner (s : State) (i : StallIx) : Inner s (s.reserveSessionEnds i) := by
  unfold State.reserveSessionEnds
  split
  · exact setHeld_inner s _
  · exact .refl s

theorem progress_inner (s : State) (n : Nat) : Inner s (s.progress n) := by
  unfold State.progress
  split
  · exact (modAct_inner s _).trans (raise_inner _ _ _ _)
  · exact .refl s

theorem setRamp_inner (s : State) (n : Nat) : Inner s { s with alloc := { s.alloc with ramp := n } } := by
  refine ⟨?_, fun _ => .refl _, fun _ => ⟨rfl, rfl, rfl⟩⟩
  constructor <;> first | rfl | exact id

theorem setReserve_inner (s : State) (x : ReserveState) : Inner s (s.setReserve x) := setReserveRec_inner s _

/-- The end of an activation, from the state in which the discharges have ended and the ramp ceiling stands. -/
theorem recover_inner (s : State) (c : ActEnd) :
    Inner s ((s.modAct fun a => { a with ended := some c }).setReserve .recovery).examineStorage :=
  ((modAct_inner s _).trans (setReserve_inner _ _)).trans (examineStorage_inner _)

theorem endActivation_inner (s : State) (c : ActEnd) : Inner s (s.endActivation c) := by
  unfold State.endActivation
  extract_lets _ s1 s2 _ s3 s4
  have a : Inner s s1 := (Inner.each _ reserveReturn_inner (.refl s) _).trans (setHeld_inner _ _)
  have b : Inner s s2 := a.trans (endOwned_inner s1 .reserve)
  have d : Inner s s3 := b.trans (setRamp_inner s2 _)
  clear_value s3
  have e : Inner s s4 := d.trans (recover_inner s3 c)
  clear_value s4
  split
  · exact e.trans (raise_inner s4 _ _ _)
  · exact e

theorem refuseDispatch_inner (s : State) (n : Nat) : Inner s (s.refuseDispatch n) := raise_inner _ _ _ _

theorem dispatchActivate_inner (s : State) (a b : Nat) : Inner s (s.dispatchActivate a b) := by
  unfold State.dispatchActivate
  split
  · exact refuseDispatch_inner s _
  · split
    · exact refuseDispatch_inner s _
    · split
      · exact activate_inner _ _ _ _ _
      · exact refuseDispatch_inner s _
    · split
      · exact activate_inner _ _ _ _ _
      · exact refuseDispatch_inner s _
    · split
      · dsimp only
        split
        · exact retarget_inner s _
        · exact (modAct_inner s _).trans (retarget_inner _ _)
      · exact .refl s
    · split
      · exact activate_inner _ _ _ _ _
      · exact refuseDispatch_inner s _

theorem dispatchRelease_inner (s : State) (n : Nat) : Inner s (s.dispatchRelease n) := by
  unfold State.dispatchRelease
  split
  · split
    · exact endActivation_inner s _
    · exact refuseDispatch_inner s _
  · exact refuseDispatch_inner s _
  · exact refuseDispatch_inner s _

theorem tripIn_inner (s : State) (w : Option WinIx) : Inner s (s.tripIn w) := by
  unfold State.tripIn
  split
  · split
    · exact activate_inner _ _ _ _ _
    · exact .refl s
  · exact .refl s

theorem frequencyTrip_inner (s : State) : Inner s s.frequencyTrip := by
  unfold State.frequencyTrip
  split
  · exact tripIn_inner s _
  · exact tripIn_inner s _
  · exact modAct_inner s _
  · exact tripIn_inner s _
  · exact .refl s

theorem frequencyRestore_inner (s : State) : Inner s s.frequencyRestore := by
  unfold State.frequencyRestore
  split
  · split
    · exact endActivation_inner s _
    · exact .refl s
  · exact .refl s

theorem reserveTime_inner (s : State) : Inner s s.reserveTime := by
  unfold State.reserveTime
  split
  · exact armingEval_inner s
  · exact armingEval_inner s
  · exact armingEval_inner s
  · split
    · exact .refl s
    · exact endActivation_inner s _
  · exact .refl s

/-! ## The Readiness Tracker (05) -/

theorem setDeps_inner (s : State) (ds : List Departure) : Inner s { s with deps := ds } := by
  refine ⟨?_, fun _ => .refl _, fun _ => ⟨rfl, rfl, rfl⟩⟩
  constructor <;> first | rfl | exact id

theorem evalEvent_inner (s : State) (n : Nat) (a b : Departure) : Inner s (s.evalEvent n a b) := by
  unfold State.evalEvent
  split
  · exact raise_inner _ _ _ _
  · split
    · exact raise_inner _ _ _ _
    · exact .refl s

theorem evalDep_inner (s : State) (n : Nat) : Inner s (s.evalDep n) := by
  unfold State.evalDep
  split
  · split
    · exact (setDeps_inner s _).trans (evalEvent_inner _ _ _ _)
    · exact .refl s
  · exact .refl s

theorem evalAll_inner (s : State) : Inner s s.evalAll := .each _ evalDep_inner (.refl s) _

theorem evalBus_inner (s : State) (b : BusIx) : Inner s (s.evalBus b) := .each _ evalDep_inner (.refl s) _

theorem endDep_inner (s : State) (n : Nat) (d : Departure) (r : Readiness) : Inner s (s.endDep n d r) :=
  setDeps_inner s _

theorem unplugOutcome_inner (s : State) (b : BusIx) (i : StallIx) : Inner s (s.unplugOutcome b i) := by
  unfold State.unplugOutcome
  split
  · exact .refl s
  · split
    · exact .refl s
    · dsimp only
      refine Inner.trans ?_ (evalBus_inner _ _)
      split
      · split
        · exact (endDep_inner s _ _ _).trans (raise_inner _ _ _ _)
        · exact (endDep_inner s _ _ _).trans (raise_inner _ _ _ _)
      · exact .refl s

/-- Evaluating a bus as though it were at no stall changes no bus record. -/
theorem evalAway_inner (s : State) (b : BusIx) : Inner s (s.evalAway b) := by
  have h := evalBus_inner (s.modBus b fun x => { x with stall := none }) b
  refine ⟨?_, h.session, fun _ => ⟨rfl, rfl, rfl⟩⟩
  obtain ⟨h, -, -⟩ := h
  cases h
  constructor <;> assumption

theorem assocEnded_inner (s : State) (b : BusIx) (i : StallIx) (c : EndCause) : Inner s (s.assocEnded b i c) := by
  unfold State.assocEnded
  split
  · exact unplugOutcome_inner s _ _
  · exact evalAway_inner s _
  · exact evalAway_inner s _
  · exact evalAway_inner s _
  · exact evalAway_inner s _
  · exact .refl s

theorem reachDep_inner (s : State) (n : Nat) : Inner s (s.reachDep n) := by
  unfold State.reachDep
  split
  · exact .refl s
  · split
    · split
      · exact endDep_inner s _ _ _
      · split
        · split
          · exact (endDep_inner s _ _ _).trans (raise_inner _ _ _ _)
          · exact (endDep_inner s _ _ _).trans (raise_inner _ _ _ _)
        · exact (endDep_inner s _ _ _).trans (raise_inner _ _ _ _)
    · exact .refl s

theorem reachWhere_inner (s : State) (p : Nat → Bool) : Inner s (s.reachWhere p) := .each _ reachDep_inner (.refl s) _

theorem dayRoll_inner (s : State) : Inner s s.dayRoll := setDeps_inner s _

theorem forwardMove_inner (s : State) (a b : Nat) : Inner s (s.forwardMove a b) := by
  unfold State.forwardMove
  dsimp only
  split
  · exact ((reachWhere_inner s _).trans (dayRoll_inner _)).trans (reachWhere_inner _ _)
  · exact reachWhere_inner s _

theorem firstSetting_inner (s : State) (n : Nat) : Inner s (s.firstSetting n) := by
  unfold State.firstSetting
  exact reachWhere_inner s _

theorem riskDep_inner (s : State) (n : Nat) : Inner s (s.riskDep n) := by
  unfold State.riskDep
  split
  · exact .refl s
  · dsimp only
    split
    · exact (setDeps_inner s _).trans (raise_inner _ _ _ _)
    · exact (setDeps_inner s _).trans (raise_inner _ _ _ _)
    · exact setDeps_inner s _

theorem riskAll_inner (s : State) : Inner s s.riskAll := .each _ riskDep_inner (.refl s) _

theorem recomputeProt_inner (s : State) : Inner s s.recomputeProt := by
  refine ⟨stalls_outer s _ fun _ => rfl, fun i => ?_, fun _ => ⟨rfl, rfl, rfl⟩⟩
  constructor <;> simp [State.recomputeProt, State.stall]

theorem sortDeps_inner (s : State) : Inner s s.sortDeps := setDeps_inner s _

/-! ## Hand-offs and the Session Table (03) -/

theorem trackerHears_inner (s : State) (h : Handed) : Inner s (s.trackerHears h) :=
  .each _ evalBus_inner (.each _ (fun s _ => assocEnded_inner s _ _ _) (.refl s) _) _

theorem coordinatorHears_inner (s : State) (h : Handed) : Inner s (s.coordinatorHears h) := by
  refine .each _ reeval_inner (.each _ (fun s _ => dropDischarge_inner s _) ?_ _) _
  split
  · exact dropDischarge_inner s _
  · exact .refl s

theorem reserveHears_inner (s : State) (h : Handed) (c : List StallIx) : Inner s (s.reserveHears h c) := by
  unfold State.reserveHears
  dsimp only
  have k : Inner s (if h.unplugged then (s.each c State.reserveProtected).reserveSessionEnds h.stall
      else s.each c State.reserveProtected) := by
    have e := Inner.each State.reserveProtected reserveProtected_inner (.refl s) c
    split
    · exact e.trans (reserveSessionEnds_inner _ _)
    · exact e
  split
  · exact k.trans (reserveSessionBegins_inner _ _)
  · exact k

theorem pathHears_inner (s : State) (h : Handed) : Inner s (s.pathHears h) := by
  unfold State.pathHears
  dsimp only
  have k : Inner s (if h.unplugged then s.sessionEnd h.stall else s) := by
    split
    · exact sessionEnd_inner s _
    · exact .refl s
  split
  · exact k.trans (sessionStart_inner _ _)
  · exact k

/-- One pass of hand-offs stays inside the depot (R38 step 5, R83). -/
theorem handOff_inner (s : State) (h : Handed) : Inner s (s.handOff h) :=
  ((((trackerHears_inner s h).trans (recomputeProt_inner _)).trans (coordinatorHears_inner _ h)).trans
    (reserveHears_inner _ h _)).trans (pathHears_inner _ h)

theorem trackerDone_inner (s : State) (f : State → State) (hf : ∀ s, Inner s (f s)) : Inner s (s.trackerDone f) :=
  .each _ reserveProtected_inner ((recomputeProt_inner s).trans (hf _)) _

theorem endAssoc_outer (s : State) (b : BusIx) (i : StallIx) : Outer s (s.endAssoc b i) := by
  unfold State.endAssoc
  refine .trans (modBus_outer s b fun x =>
    { x with stall := none, carried := if x.energy.isSome then true else x.carried }) ?_
  refine modStall_outer _ _ _ ?_
  exact fun _ => rfl

theorem takeBus_outer (s : State) (i : StallIx) (b : BusIx) (o : Option StallIx) : Outer s (s.takeBus i b o) := by
  unfold State.takeBus
  dsimp only
  have h := (modBus_outer s b (fun x => { x with stall := some i })).trans
    (modStall_outer _ i (fun x => { x with occ := .session, bus := some b, partner := none }) fun _ => rfl)
  split
  · exact h.trans (raise_outer _ _ _ _)
  · exact h.trans (raise_outer _ _ _ _)

theorem drop_outer (r : Settled) (i : StallIx) (c : EndCause) : Outer r.state (r.drop i c).state := by
  unfold Settled.drop
  split
  · exact endAssoc_outer _ _ _
  · exact .refl _

theorem become_outer (r : Settled) (i : StallIx) (o : Occupancy) : Outer r.state (r.become i o).state := by
  unfold Settled.become
  dsimp only
  refine modStall_outer _ _ _ ?_
  exact fun _ => rfl

theorem take_outer (r : Settled) (i : StallIx) (b : BusIx) : Outer r.state (r.take i b).state := by
  unfold Settled.take
  split
  · exact takeBus_outer r.state i b none
  · next u _ =>
    dsimp only
    refine .trans ?_ (takeBus_outer _ _ _ _)
    refine .trans (endAssoc_outer r.state b u) ?_
    refine modStall_outer _ _ _ ?_
    exact fun _ => rfl

theorem conflict_outer (r : Settled) (i t : StallIx) : Outer r.state (r.conflict i t).state := by
  unfold Settled.conflict
  dsimp only
  have h := modStall_outer r.state i (fun x => { x with occ := .conflict, partner := some t }) fun _ => rfl
  split
  · exact h
  · exact h.trans (raise_outer _ _ _ _)

theorem claim_outer (r : Settled) (i : StallIx) (b : BusIx) : Outer r.state (r.claim i b).state := by
  unfold Settled.claim
  split
  · exact take_outer _ _ _
  · split
    · exact conflict_outer _ _ _
    · exact take_outer _ _ _

theorem plugged_outer (r : Settled) (i : StallIx) (a b : Option Nat) : Outer r.state (r.plugged i a b).state := by
  unfold Settled.plugged
  dsimp only
  split
  · split
    · exact .refl _
    · exact become_outer _ _ _
  · split
    · have h := (drop_outer r i .identity).trans (become_outer _ i .guest)
      split
      · exact h
      · exact h.trans (raise_outer _ _ _ _)
    · split
      · exact .refl _
      · exact (drop_outer r i .identity).trans (claim_outer _ _ _)

theorem clearPlug_outer (s : State) (i : StallIx) : Outer s (s.clearPlug i) := by
  unfold State.clearPlug
  refine modStall_outer _ _ _ ?_
  exact fun _ => rfl

theorem unplugged_outer (r : Settled) (i : StallIx) : Outer r.state (r.unplugged i).state := by
  unfold Settled.unplugged
  dsimp only
  split
  · exact .refl _
  · exact ((drop_outer r i .unplug).trans (clearPlug_outer _ _)).trans (raise_outer _ _ _ _)
  · exact (clearPlug_outer _ _).trans (raise_outer _ _ _ _)
  · exact (clearPlug_outer _ _).trans (raise_outer _ _ _ _)
  · exact (clearPlug_outer _ _).trans (raise_outer _ _ _ _)
  · exact become_outer _ _ _

theorem faultCode_outer (r : Settled) (i : StallIx) (a b : Nat) : Outer r.state (r.faultCode i a b).state := by
  unfold Settled.faultCode
  dsimp only
  split
  · split
    · exact .refl _
    · exact raise_outer _ _ _ _
  · refine .trans ?_ (raise_outer _ _ _ _)
    refine .trans (drop_outer r i .fault) ?_
    refine modStall_outer _ _ _ ?_
    exact fun _ => rfl

theorem faultCleared_outer (r : Settled) (i : StallIx) (n : Nat) : Outer r.state (r.faultCleared i n).state := by
  unfold Settled.faultCleared
  exact .trans (raise_outer r.state .stallFaultCleared (.stall i) n)
    (become_outer ⟨r.state.raise .stallFaultCleared (.stall i) n, r.ended, r.took⟩ i .vacant)

theorem settle_outer (s : State) (i : StallIx) (p : PortRecord) (x : Stall) : Outer s (s.settle i p x).state := by
  unfold State.settle
  dsimp only
  split
  · exact faultCode_outer ⟨s, [], none⟩ i _ _
  · have h : Outer s (if x.occ = .faulted then (⟨s, [], none⟩ : Settled).faultCleared i x.fault
        else ⟨s, [], none⟩).state := by
      split
      · exact faultCleared_outer ⟨s, [], none⟩ i _
      · exact .refl s
    split
    · exact h.trans (plugged_outer _ _ _ _)
    · exact h.trans (unplugged_outer _ _)

theorem setBaseline_outer (s : State) (i : StallIx) (a b : Int) : Outer s (s.setBaseline i a b) := by
  unfold State.setBaseline
  refine modStall_outer _ _ _ ?_
  exact fun _ => rfl

theorem estimateStep_outer (s : State) (i : StallIx) (p : PortRecord) (f : Bool) : Outer s (s.estimateStep i p f) := by
  unfold State.estimateStep
  split
  · unfold State.estimate
    split
    · exact (modBus_outer _ _ _).trans (setBaseline_outer _ _ _ _)
    · split
      · dsimp only
        split
        · exact (modBus_outer _ _ _).trans (setBaseline_outer _ _ _ _)
        · exact setBaseline_outer _ _ _ _
      · unfold State.countEstimate
        dsimp only
        split
        · exact ((modBus_outer _ _ _).trans (setBaseline_outer _ _ _ _)).trans (raise_outer _ _ _ _)
        · split
          · exact setBaseline_outer _ _ _ _
          · exact (modBus_outer _ _ _).trans (setBaseline_outer _ _ _ _)
  · unfold State.keepBaseline
    split
    · exact setBaseline_outer _ _ _ _
    · exact .refl _

theorem storeRecord_outer (s : State) (i : StallIx) (p : PortRecord) : Outer s (s.storeRecord i p) := by
  unfold State.storeRecord
  dsimp only
  have h := modStall_outer s i (fun x => { x with fresh := .fresh, age := 0 }) fun _ => rfl
  refine Outer.trans ?_ ((by refine modStall_outer _ _ _ ?_; exact fun _ => rfl))
  split
  · exact h.trans (raise_outer _ _ _ _)
  · exact h

/-- A port record stays inside the depot (R38). -/
theorem portRecord_outer (s : State) (i : StallIx) (p : PortRecord) : Outer s (s.portRecord i p) := by
  unfold State.portRecord
  dsimp only
  split
  · exact (((storeRecord_outer s i p).trans (settle_outer _ _ _ _)).trans (estimateStep_outer _ _ _ _)).trans
      (handOff_inner _ _).toOuter
  · exact .refl s

theorem ageReached_outer (s : State) (i : StallIx) (n : Nat) (f : Freshness) (k : EventKind) :
    Outer s (s.ageReached i n f k) := by
  unfold State.ageReached
  refine .each _ (fun s b => (reeval_inner s b).toOuter) (.trans ?_ (raise_outer _ _ _ _)) _
  refine modStall_outer _ _ _ ?_
  exact fun _ => rfl

theorem leaveService_outer (s : State) (i : StallIx) : Outer s (s.leaveService i) := by
  unfold State.leaveService
  dsimp only
  have h := ((drop_outer ⟨s, [], none⟩ i .outOfService).trans (clearPlug_outer _ i)).trans
    (modStall_outer _ i (fun x => { x with fresh := .none, age := 0 }) fun _ => rfl)
  split
  · exact h.trans (handOff_inner _ _).toOuter
  · exact h

theorem enterService_outer (s : State) (i : StallIx) : Outer s (s.enterService i) := by
  unfold State.enterService
  refine modStall_outer _ _ _ ?_
  exact fun _ => rfl

theorem reService_outer (s : State) : Outer s s.reService := by
  unfold State.reService
  refine .each _ (fun t i => ?_) ?_ _
  case refine_2 =>
    refine stalls_outer s _ ?_
    exact fun _ => rfl
  split
  · exact leaveService_outer t i
  · exact enterService_outer t i

end Sys2Proof.Machine
end

