-- ==== Sys2Proof/Laws/Association.lean ====
section
/-! SUPPORT. The association law (3.1, R37, R5): what each operation of the Session Table, the Plant Map and the FLEET
swap makes of it. One lemma per operation, cited by the next. -/

-- Elaborated one after another, these proofs need one thread's memory.
set_option Elab.async false

namespace Sys2Proof.Machine

open Sys2Proof

/-! ## The law over some stalls -/

/-- The association law, its clause on OUT_OF_SERVICE stalls asked only of the stalls that satisfy `p`. -/
structure Linked (p : StallIx → Prop) (s : State) : Prop where
  session : ∀ i, (s.stall i).bus ≠ none ↔ (s.stall i).occ = .session
  named   : ∀ i b, (s.stall i).bus = some b ↔ (s.bus b).stall = some i
  vacant  : ∀ i, p i → (s.stall i).inService = false → (s.stall i).occ = .vacant

theorem associated_iff_linked (s : State) : Associated s ↔ Linked (fun _ => True) s :=
  ⟨fun h => ⟨h.session, h.named, fun i _ => h.vacant i⟩, fun h => ⟨h.session, h.named, fun i => h.vacant i trivial⟩⟩

/-- What the association law reads of a state is as it was. -/
structure SameLinks (s t : State) : Prop where
  inService : ∀ i, (t.stall i).inService = (s.stall i).inService
  occ       : ∀ i, (t.stall i).occ = (s.stall i).occ
  bus       : ∀ i, (t.stall i).bus = (s.stall i).bus
  stall     : ∀ b, (t.bus b).stall = (s.bus b).stall

theorem SameLinks.refl (s : State) : SameLinks s s := ⟨fun _ => rfl, fun _ => rfl, fun _ => rfl, fun _ => rfl⟩

theorem SameLinks.trans {s t u : State} (h : SameLinks s t) (k : SameLinks t u) : SameLinks s u where
  inService i := (k.inService i).trans (h.inService i)
  occ i := (k.occ i).trans (h.occ i)
  bus i := (k.bus i).trans (h.bus i)
  stall b := (k.stall b).trans (h.stall b)

theorem Inner.sameLinks {s t : State} (h : Inner s t) : SameLinks s t :=
  ⟨fun i => (h.session i).inService, fun i => (h.session i).occ, fun i => (h.session i).bus, fun b => (h.buses b).stall⟩

theorem SameLinks.linked {p : StallIx → Prop} {s t : State} (h : SameLinks s t) (k : Linked p s) : Linked p t where
  session i := by rw [h.bus, h.occ]; exact k.session i
  named i b := by rw [h.bus, h.stall]; exact k.named i b
  vacant i hp := by rw [h.inService, h.occ]; exact k.vacant i hp

theorem SameLinks.associated {s t : State} (h : SameLinks s t) (k : Associated s) : Associated t :=
  (associated_iff_linked t).mpr (h.linked ((associated_iff_linked s).mp k))

/-- A change of one stall that leaves its service status, occupancy and bus. -/
theorem modStall_sameLinks (s : State) (i : StallIx) (f : Stall → Stall) (h : ∀ x : Stall,
    (f x).inService = x.inService ∧ (f x).occ = x.occ ∧ (f x).bus = x.bus) : SameLinks s (s.modStall i f) := by
  refine ⟨fun j => ?_, fun j => ?_, fun j => ?_, fun _ => rfl⟩ <;> rw [State.stall_modStall] <;> split <;>
    first | rfl | (subst_vars; first | exact (h _).1 | exact (h _).2.1 | exact (h _).2.2)

/-- A change of one bus that leaves its stall. -/
theorem modBus_sameLinks (s : State) (b : BusIx) (f : Bus → Bus) (h : ∀ x : Bus, (f x).stall = x.stall) :
    SameLinks s (s.modBus b f) := by
  refine ⟨fun _ => rfl, fun _ => rfl, fun _ => rfl, fun c => ?_⟩
  rw [State.bus_modBus]
  split
  · subst_vars; exact h _
  · rfl

theorem raise_sameLinks (s : State) (k : EventKind) (x : Subject) (p : Int) : SameLinks s (s.raise k x p) :=
  (raise_inner s k x p).sameLinks

/-! ## A stall between two occupancies -/

/-- The law holds but at stall `i`, which has no bus and whose occupancy is being settled. -/
structure Freed (p : StallIx → Prop) (s : State) (i : StallIx) : Prop where
  bus     : (s.stall i).bus = none
  session : ∀ j, j ≠ i → ((s.stall j).bus ≠ none ↔ (s.stall j).occ = .session)
  named   : ∀ j b, (s.stall j).bus = some b ↔ (s.bus b).stall = some j
  vacant  : ∀ j, j ≠ i → p j → (s.stall j).inService = false → (s.stall j).occ = .vacant

theorem SameLinks.freed {p : StallIx → Prop} {s t : State} {i : StallIx} (h : SameLinks s t) (k : Freed p s i) :
    Freed p t i where
  bus := by rw [h.bus]; exact k.bus
  session j hj := by rw [h.bus, h.occ]; exact k.session j hj
  named j b := by rw [h.bus, h.stall]; exact k.named j b
  vacant j hj hp := by rw [h.inService, h.occ]; exact k.vacant j hj hp

/-- A stall with no bus may be settled. -/
theorem Linked.freed {p : StallIx → Prop} {s : State} {i : StallIx} (h : Linked p s) (hb : (s.stall i).bus = none) :
    Freed p s i := ⟨hb, fun j _ => h.session j, h.named, fun j _ => h.vacant j⟩

/-- A stall in another occupancy than SESSION has no bus. -/
theorem Linked.bus_none {p : StallIx → Prop} {s : State} {i : StallIx} (h : Linked p s)
    (ho : (s.stall i).occ ≠ .session) : (s.stall i).bus = none := by
  exact Decidable.byContradiction fun hb => ho ((h.session i).mp hb)

/-- The stall takes an occupancy other than SESSION, VACANT where it is OUT_OF_SERVICE. -/
theorem Freed.settled {p : StallIx → Prop} {s : State} {i : StallIx} (h : Freed p s i) (f : Stall → Stall)
    (hb : (f (s.stall i)).bus = none) (ho : (f (s.stall i)).occ ≠ .session)
    (hv : (f (s.stall i)).inService = false → (f (s.stall i)).occ = .vacant) :
    Linked (fun j => p j ∨ j = i) (s.modStall i f) where
  session j := by
    rw [State.stall_modStall]
    split
    · subst_vars; simp [hb, ho]
    · next hj => exact h.session j (Ne.symm hj)
  named j b := by
    rw [State.stall_modStall, State.bus_modStall]
    split
    · subst_vars; rw [hb, ← h.named, h.bus]
    · exact h.named j b
  vacant j hj := by
    rw [State.stall_modStall]
    split
    · subst_vars; exact hv
    · next hn => exact h.vacant j (Ne.symm hn) (hj.resolve_right (Ne.symm hn))

/-- An association ends: its stall may be settled (R47). -/
theorem Linked.endAssoc {p : StallIx → Prop} {s : State} {b : BusIx} {i : StallIx} (h : Linked p s)
    (hb : (s.stall i).bus = some b) : Freed p (s.endAssoc b i) i := by
  unfold State.endAssoc
  refine ⟨by simp, fun j hj => ?_, fun j c => ?_, fun j hj => ?_⟩
  · simpa [Ne.symm hj] using h.session j
  · have hs : ((s.modBus b fun x => { x with
        stall := none, carried := if x.energy.isSome then true else x.carried }).bus c).stall =
        if b = c then none else (s.bus c).stall := by rw [State.bus_modBus]; split <;> rfl
    rw [State.stall_modStall, State.bus_modStall, hs, State.stall_modBus]
    by_cases hji : i = j
    · subst hji
      rw [if_pos rfl]
      split
      · simp
      · next hc => simp only [reduceCtorEq, false_iff]; exact fun k => hc (by
          have := (h.named i c).mpr k
          rw [hb] at this; exact Option.some.inj this)
    · rw [if_neg hji]
      split
      · next hc =>
        subst hc
        simp only [reduceCtorEq, iff_false]
        intro k
        have := (h.named j b).mp k
        rw [(h.named i b).mp hb] at this
        exact hji (Option.some.inj this)
      · exact h.named j c
  · simpa [Ne.symm hj] using h.vacant j

/-- The stall takes a bus that has no stall (R44). -/
theorem Freed.takes {p : StallIx → Prop} {s : State} {i : StallIx} {b : BusIx} {old : Option StallIx} (h : Freed p s i)
    (hs : (s.stall i).inService = true) (hb : (s.bus b).stall = none) : Linked p (s.takeBus i b old) := by
  have key : Linked p ((s.modBus b fun x => { x with stall := some i }).modStall i
      fun x => { x with occ := .session, bus := some b, partner := none }) := by
    refine ⟨fun j => ?_, fun j c => ?_, fun j hp => ?_⟩
    · rw [State.stall_modStall, State.stall_modBus]
      split
      · simp
      · next hj => exact h.session j (Ne.symm hj)
    · rw [State.stall_modStall, State.bus_modStall, State.bus_modBus, State.stall_modBus]
      by_cases hji : i = j
      · subst hji
        rw [if_pos rfl]
        split
        · next hc => simp [hc]
        · next hc =>
          simp only [Option.some.injEq, hc, false_iff]
          intro k
          have := (h.named i c).mpr k
          rw [h.bus] at this; cases this
      · rw [if_neg hji]
        split
        · next hc =>
          subst hc
          simp only [Option.some.injEq, hji, iff_false]
          intro k
          have := (h.named j b).mp k
          rw [hb] at this; cases this
        · exact h.named j c
    · rw [State.stall_modStall, State.stall_modBus]
      split
      · next hj => subst hj; intro k; simp only at k; rw [hs] at k; cases k
      · next hj => exact h.vacant j (Ne.symm hj) hp
  unfold State.takeBus
  cases old with
  | none => exact (raise_sameLinks _ _ _ _).linked key
  | some t => exact (raise_sameLinks _ _ _ _).linked key

theorem Linked.mono {p q : StallIx → Prop} {s : State} (h : Linked p s) (k : ∀ i, q i → p i) : Linked q s :=
  ⟨h.session, h.named, fun i hi => h.vacant i (k i hi)⟩

theorem endAssoc_inService (s : State) (b : BusIx) (i j : StallIx) :
    ((s.endAssoc b i).stall j).inService = (s.stall j).inService := by
  unfold State.endAssoc
  rw [State.stall_modStall, State.stall_modBus]
  split <;> rfl

/-- Another stall's association with a bus ends and it becomes UNIDENTIFIED (R45). -/
theorem Freed.displaces {p : StallIx → Prop} {s : State} {i t : StallIx} {b : BusIx} (h : Freed p s i)
    (hb : (s.bus b).stall = some t) :
    let u := (s.endAssoc b t).modStall t fun x => { x with occ := .unidentified }
    Freed p u i ∧ (u.bus b).stall = none ∧ (u.stall i).inService = (s.stall i).inService := by
  intro u
  have ht : (s.stall t).bus = some b := (h.named t b).mpr hb
  have hti : t ≠ i := fun k => by rw [k, h.bus] at ht; cases ht
  have hin : ∀ j, (u.stall j).inService = (s.stall j).inService := fun j => by
    rw [State.stall_modStall]; split <;> exact endAssoc_inService s b t j
  have hst : ∀ j, u.stall j = if t = j then { s.stall j with
      bus := none, baseline := none, residue := 0, occ := .unidentified } else s.stall j := fun j => by
    unfold u State.endAssoc
    rw [State.stall_modStall, State.stall_modStall, State.stall_modBus]
    split <;> rfl
  have hbus : ∀ c, (u.bus c).stall = if b = c then none else (s.bus c).stall := fun c => by
    unfold u State.endAssoc
    rw [State.bus_modStall, State.bus_modStall, State.bus_modBus]
    split <;> rfl
  refine ⟨⟨?_, fun j hj => ?_, fun j c => ?_, fun j hj hp => ?_⟩, ?_, hin i⟩
  · rw [hst, if_neg hti]; exact h.bus
  · rw [hst]
    split
    · simp
    · exact h.session j hj
  · rw [hst, hbus]
    by_cases hj : t = j
    · subst hj
      rw [if_pos rfl]
      split
      · simp
      · next hc =>
        simp only [reduceCtorEq, false_iff]
        exact fun k => hc (Option.some.inj (ht.symm.trans ((h.named t c).mpr k)))
    · rw [if_neg hj]
      split
      · next hc =>
        subst hc
        simp only [reduceCtorEq, iff_false]
        exact fun k => hj (Option.some.inj (hb.symm.trans ((h.named j b).mp k)))
      · exact h.named j c
  · rw [hst]
    split
    · next hc =>
      subst hc
      intro k
      have := h.vacant t hj hp k
      rw [((h.session t hj).mp (by rw [ht]; simp))] at this; cases this
    · exact h.vacant j hj hp
  · rw [hbus, if_pos rfl]

/-! ## Settling an occupancy (R41 to R46) -/

variable {r : Settled} {i : StallIx}

theorem drop_inService (c : EndCause) (j : StallIx) :
    (((r.drop i c).state).stall j).inService = (r.state.stall j).inService := by
  unfold Settled.drop
  split
  · exact endAssoc_inService _ _ _ _
  · rfl

theorem drop_freed {p : StallIx → Prop} (h : Linked p r.state) (c : EndCause) : Freed p (r.drop i c).state i := by
  unfold Settled.drop
  split
  · next b hb => exact h.endAssoc hb
  · next hb => exact h.freed hb

theorem become_linked (h : Freed (fun _ => True) r.state i) (o : Occupancy) (ho : o ≠ .session)
    (hs : (r.state.stall i).inService = true) : Linked (fun _ => True) (r.become i o).state := by
  unfold Settled.become
  refine Linked.mono (Freed.settled h (fun x => { x with occ := o, partner := none }) h.bus ho ?_) fun _ _ => .inl trivial
  intro k
  rw [show (r.state.stall i).inService = false from k] at hs; cases hs

theorem take_linked (h : Freed (fun _ => True) r.state i) (b : BusIx) (hs : (r.state.stall i).inService = true) :
    Linked (fun _ => True) (r.take i b).state := by
  unfold Settled.take
  split
  · next hb => exact h.takes (old := none) hs hb
  · next t hb =>
    have k := h.displaces hb
    exact Freed.takes (old := some t) k.1 (k.2.2.trans hs) k.2.1

theorem conflict_linked (h : Freed (fun _ => True) r.state i) (t : StallIx) (hs : (r.state.stall i).inService = true) :
    Linked (fun _ => True) (r.conflict i t).state := by
  have key : Linked (fun _ => True) (r.state.modStall i fun x => { x with occ := .conflict, partner := some t }) := by
    refine Linked.mono (Freed.settled h _ h.bus (by simp) ?_) fun _ _ => .inl trivial
    intro k
    rw [show (r.state.stall i).inService = false from k] at hs; cases hs
  unfold Settled.conflict
  dsimp only
  split
  · exact key
  · exact (raise_sameLinks _ _ _ _).linked key

theorem claim_linked (h : Freed (fun _ => True) r.state i) (b : BusIx) (hs : (r.state.stall i).inService = true) :
    Linked (fun _ => True) (r.claim i b).state := by
  unfold Settled.claim
  split
  · exact take_linked h b hs
  · split
    · exact conflict_linked h _ hs
    · exact take_linked h b hs

theorem plugged_linked (h : Linked (fun _ => True) r.state) (no old : Option Nat)
    (hs : (r.state.stall i).inService = true) : Linked (fun _ => True) (r.plugged i no old).state := by
  have hd := drop_freed (r := r) (i := i) h .identity
  have hi := (drop_inService (r := r) (i := i) .identity i).trans hs
  unfold Settled.plugged
  dsimp only
  split
  · split
    · exact h
    · next hn => exact become_linked (h.freed (h.bus_none hn)) _ (by simp) hs
  · split
    · have k := become_linked hd .guest (by simp) hi
      split
      · exact k
      · exact (raise_sameLinks _ _ _ _).linked k
    · split
      · exact h
      · exact claim_linked hd _ hi

theorem clearPlug_linked {p : StallIx → Prop} {s : State} (h : Freed p s i) :
    Linked (fun j => p j ∨ j = i) (s.clearPlug i) :=
  Freed.settled h _ h.bus (by simp) fun _ => rfl

theorem unplugged_linked (h : Linked (fun _ => True) r.state) (hs : (r.state.stall i).inService = true) :
    Linked (fun _ => True) (r.unplugged i).state := by
  have out : ∀ {s : State}, Freed (fun _ => True) s i → ∀ q, Linked (fun _ => True)
      ((s.clearPlug i).raise .unplug (.stall i) q) := fun k q =>
    (raise_sameLinks _ _ _ _).linked ((clearPlug_linked k).mono fun _ _ => .inl trivial)
  have free : ∀ {o}, (r.state.stall i).occ = o → o ≠ .session → Freed (fun _ => True) r.state i :=
    fun ho hn => h.freed (h.bus_none (ho ▸ hn))
  unfold Settled.unplugged
  dsimp only
  split
  · exact h
  · exact out (drop_freed h .unplug) _
  · next ho => exact out (free ho (by simp)) _
  · next ho => exact out (free ho (by simp)) _
  · next ho => exact out (free ho (by simp)) _
  · next ho => exact become_linked (free ho (by simp)) _ (by simp) hs

theorem faultCode_linked (h : Linked (fun _ => True) r.state) (a b : Nat) (hs : (r.state.stall i).inService = true) :
    Linked (fun _ => True) (r.faultCode i a b).state := by
  unfold Settled.faultCode
  dsimp only
  split
  · split
    · exact h
    · exact (raise_sameLinks _ _ _ _).linked h
  · refine (raise_sameLinks _ _ _ _).linked (Linked.mono (Freed.settled (drop_freed h .fault) _ ?_ (by simp) ?_)
      fun _ _ => .inl trivial)
    · exact (drop_freed (r := r) (i := i) h .fault).bus
    · intro k
      have := (drop_inService (r := r) (i := i) .fault i).trans hs
      rw [show ((r.drop i .fault).state.stall i).inService = false from k] at this; cases this

/-- Settling an occupancy keeps the association law (R41 to R46). -/
theorem settle_associated {s : State} (h : Associated s) (p : PortRecord) (old : Stall)
    (hs : (s.stall i).inService = true) (ho : old.occ = (s.stall i).occ) : Associated (s.settle i p old).state := by
  have h0 := (associated_iff_linked s).mp h
  refine (associated_iff_linked _).mpr ?_
  unfold State.settle
  dsimp only
  split
  · exact faultCode_linked (r := ⟨s, [], none⟩) h0 _ _ hs
  · have k : Linked (fun _ => True) (if old.occ = .faulted then (⟨s, [], none⟩ : Settled).faultCleared i old.fault
        else ⟨s, [], none⟩).state ∧ ((if old.occ = .faulted then (⟨s, [], none⟩ : Settled).faultCleared i old.fault
        else ⟨s, [], none⟩).state.stall i).inService = true := by
      split
      · next hf =>
        refine ⟨?_, by simpa [Settled.faultCleared, Settled.become] using hs⟩
        refine become_linked (r := ⟨s.raise .stallFaultCleared (.stall i) old.fault, [], none⟩) ?_ _ (by simp) hs
        exact (raise_sameLinks _ _ _ _).freed (h0.freed (h0.bus_none (by rw [← ho, hf]; simp)))
      · exact ⟨h0, hs⟩
    split
    · exact plugged_linked k.1 _ _ k.2
    · exact unplugged_linked k.1 k.2

/-! ## A port record (R38) -/

theorem storeRecord_sameLinks (s : State) (p : PortRecord) : SameLinks s (s.storeRecord i p) := by
  unfold State.storeRecord
  dsimp only
  refine SameLinks.trans ?_ (modStall_sameLinks _ _ _ fun _ => ⟨rfl, rfl, rfl⟩)
  split
  · exact (modStall_sameLinks s i (fun x => { x with fresh := .fresh, age := 0 }) fun _ => ⟨rfl, rfl, rfl⟩).trans
      (raise_sameLinks _ _ _ _)
  · exact modStall_sameLinks s i _ fun _ => ⟨rfl, rfl, rfl⟩

theorem setBaseline_sameLinks (s : State) (a b : Int) : SameLinks s (s.setBaseline i a b) :=
  modStall_sameLinks s i _ fun _ => ⟨rfl, rfl, rfl⟩

theorem energy_sameLinks (s : State) (b : BusIx) (e : Option Nat) :
    SameLinks s (s.modBus b fun x => { x with energy := e }) := by
  refine modBus_sameLinks s b _ ?_
  exact fun _ => rfl

theorem setEnergy_sameLinks (s : State) (b : BusIx) (e : Option Nat) (c : Bool) : SameLinks s (s.setEnergy b e c) := by
  refine modBus_sameLinks s b _ ?_
  exact fun _ => rfl

theorem estimateStep_sameLinks (s : State) (p : PortRecord) (f : Bool) : SameLinks s (s.estimateStep i p f) := by
  unfold State.estimateStep
  split
  · unfold State.estimate
    split
    · exact (setEnergy_sameLinks _ _ _ _).trans (setBaseline_sameLinks _ _ _)
    · split
      · dsimp only
        split
        · exact (setEnergy_sameLinks _ _ _ _).trans (setBaseline_sameLinks _ _ _)
        · exact setBaseline_sameLinks _ _ _
      · unfold State.countEstimate
        dsimp only
        split
        · exact ((energy_sameLinks _ _ _).trans (setBaseline_sameLinks _ _ _)).trans
            (raise_sameLinks _ _ _ _)
        · split
          · exact setBaseline_sameLinks _ _ _
          · exact (energy_sameLinks _ _ _).trans (setBaseline_sameLinks _ _ _)
  · unfold State.keepBaseline
    split
    · exact setBaseline_sameLinks _ _ _
    · exact .refl _

/-- A port record keeps the association law (R38). -/
theorem portRecord_associated {s : State} (h : Associated s) (i : StallIx) (p : PortRecord) :
    Associated (s.portRecord i p) := by
  unfold State.portRecord
  dsimp only
  split
  · next hs =>
    have k := storeRecord_sameLinks (i := i) s p
    exact ((handOff_inner _ _).sameLinks).associated ((estimateStep_sameLinks _ _ _).associated
      (settle_associated (k.associated h) p (s.stall i) ((k.inService i).trans hs) (k.occ i).symm))
  · exact h

/-- The port records of a TELEMETRY keep the association law (R21). -/
theorem portRecords_associated {s : State} (h : Associated s) (d : DispIx) (rs : List (Fin 2 × PortRecord)) :
    Associated (s.portRecords d rs) := by
  unfold State.portRecords State.each
  induction rs generalizing s with
  | nil => exact h
  | cons a rs ih => exact ih (portRecord_associated h _ _)

/-- An age threshold keeps the association law (R40). -/
theorem ageReached_associated {s : State} (h : Associated s) (i : StallIx) (n : Nat) (f : Freshness) (k : EventKind) :
    Associated (s.ageReached i n f k) := by
  unfold State.ageReached
  refine (Inner.each _ reeval_inner (.refl _) _).sameLinks.associated ((raise_sameLinks _ _ _ _).associated
    ((modStall_sameLinks s i _ ?_).associated h))
  exact fun _ => ⟨rfl, rfl, rfl⟩

/-! ## Service status (R4, R5) -/

/-- A stall leaves service: it becomes VACANT, and no other stall's service status moves (R5). -/
theorem leaveService_linked {p : StallIx → Prop} {s : State} (h : Linked p s) (i : StallIx) :
    Linked (fun j => p j ∨ j = i) (s.leaveService i) ∧
      (∀ j, ((s.leaveService i).stall j).inService = (s.stall j).inService) ∧
      ∀ j, j ≠ i → ((s.leaveService i).stall j).occ = (s.stall j).occ := by
  have hd := drop_freed (r := ⟨s, [], none⟩) (i := i) h .outOfService
  let u := ((((⟨s, [], none⟩ : Settled).drop i .outOfService).state.clearPlug i).modStall i
    fun x => { x with fresh := .none, age := 0 })
  have hu : SameLinks (((⟨s, [], none⟩ : Settled).drop i .outOfService).state.clearPlug i) u :=
    modStall_sameLinks _ i _ fun _ => ⟨rfl, rfl, rfl⟩
  have hl : Linked (fun j => p j ∨ j = i) u := hu.linked (clearPlug_linked hd)
  have hc : ∀ (t : State) (j : StallIx), ((t.clearPlug i).stall j).inService = (t.stall j).inService := fun t j => by
    unfold State.clearPlug; rw [State.stall_modStall]; split <;> rfl
  have ho : ∀ (t : State) (j : StallIx), j ≠ i → ((t.clearPlug i).stall j).occ = (t.stall j).occ := fun t j hj => by
    unfold State.clearPlug; rw [State.stall_modStall, if_neg (Ne.symm hj)]
  have hdo : ∀ j, j ≠ i → ((((⟨s, [], none⟩ : Settled).drop i .outOfService).state).stall j).occ = (s.stall j).occ := by
    intro j hj
    unfold Settled.drop
    split
    · unfold State.endAssoc; dsimp only; rw [State.stall_modStall, if_neg (Ne.symm hj)]; rfl
    · rfl
  have fin : ∀ t : State, SameLinks u t → Linked (fun j => p j ∨ j = i) t ∧
      (∀ j, (t.stall j).inService = (s.stall j).inService) ∧ ∀ j, j ≠ i → (t.stall j).occ = (s.stall j).occ :=
    fun t k => ⟨k.linked hl,
      fun j => (k.inService j).trans ((hu.inService j).trans ((hc _ j).trans (drop_inService _ _))),
      fun j hj => (k.occ j).trans ((hu.occ j).trans ((ho _ j hj).trans (hdo j hj)))⟩
  unfold State.leaveService
  dsimp only
  split
  · exact fin _ (handOff_inner _ _).sameLinks
  · exact fin _ (.refl _)

/-- A stall with no bus enters service: it is VACANT (R5). -/
theorem enterService_linked {p : StallIx → Prop} {s : State} (h : Linked p s) (i : StallIx)
    (ho : (s.stall i).occ ≠ .session) : Linked (fun j => p j ∨ j = i) (s.enterService i) ∧
      (∀ j, ((s.enterService i).stall j).inService = (s.stall j).inService) ∧
      ∀ j, j ≠ i → ((s.enterService i).stall j).occ = (s.stall j).occ := by
  refine ⟨Freed.settled (h.freed (h.bus_none ho)) _ (h.bus_none ho) (by simp) fun _ => rfl, fun j => ?_, fun j hj => ?_⟩
  · unfold State.enterService; rw [State.stall_modStall]; split <;> rfl
  · unfold State.enterService; rw [State.stall_modStall, if_neg (Ne.symm hj)]

/-- The service status re-derived keeps the association law (R4, R5). -/
theorem reService_associated {s : State} (h : Associated s) : Associated s.reService := by
  let was (i : StallIx) : Bool := (s.stall i).inService
  let act (t : State) (i : StallIx) : State := if was i then t.leaveService i else t.enterService i
  have run : ∀ (is : List StallIx) (t : State), is.Nodup → Linked (fun j => j ∉ is) t →
      (∀ j ∈ is, was j = false → (t.stall j).occ = .vacant) → Linked (fun _ => True) (is.foldl act t) := by
    intro is
    induction is with
    | nil => exact fun t _ hl _ => hl.mono fun _ _ => by simp
    | cons i is ih =>
      intro t hn hl hv
      have hn' := List.nodup_cons.mp hn
      have step : Linked (fun j => j ∉ i :: is ∨ j = i) (act t i) ∧
          ∀ j, j ≠ i → ((act t i).stall j).occ = (t.stall j).occ := by
        unfold act
        split
        · have k := leaveService_linked hl i; exact ⟨k.1, k.2.2⟩
        · next hw =>
          have k := enterService_linked hl i (by
            rw [hv i (List.mem_cons_self ..) (by simpa using hw)]; simp)
          exact ⟨k.1, k.2.2⟩
      refine ih _ hn'.2 (step.1.mono fun j hj => ?_) fun j hj hw => ?_
      · by_cases hji : j = i
        · exact .inr hji
        · exact .inl fun hm => (List.mem_cons.mp hm).elim hji hj
      · have hji : j ≠ i := fun k => hn'.1 (k ▸ hj)
        rw [step.2 j hji]
        exact hv j (List.mem_cons_of_mem _ hj) hw
  refine (associated_iff_linked _).mpr ?_
  unfold State.reService State.each
  refine run _ _ ((List.nodup_finRange 48).filter _) ⟨fun i => ?_, fun i b => ?_, fun i hi hs => ?_⟩ fun i _ hw => ?_
  · simpa [State.stall] using h.session i
  · simpa [State.stall, State.bus] using h.named i b
  · have e : s.serviceOf i = false := by simpa [State.stall] using hs
    have hw : (s.stall i).inService = false := by
      have := hi
      simp only [allStalls, List.mem_filter, List.mem_finRange, true_and, bne_iff_ne, ne_eq, Decidable.not_not] at this
      rw [this, e]
    simpa [State.stall] using h.vacant i hw
  · simpa [State.stall] using h.vacant i hw

/-! ## The FLEET swap (R52) -/

/-- Where the used numbers of a set are all different, the entry with a number is the one that has it. -/
theorem entryOf_iff {set : Vector BusEntry 64} (h : FleetDistinct set) (n : Nat) (b : BusIx) :
    entryOf set n = some b ↔ n ≠ 0 ∧ set[b.val].fleet = n := by
  unfold entryOf
  by_cases hn : n = 0
  · simp [hn]
  · rw [if_neg hn]
    constructor
    · intro k
      have := List.find?_some k
      exact ⟨hn, by simpa using this⟩
    · rintro ⟨_, hb⟩
      cases hf : allBuses.find? fun b => set[b.val].fleet == n with
      | none =>
        have := List.find?_eq_none.mp hf b (List.mem_finRange b)
        simp [hb] at this
      | some c =>
        have hc : set[c.val].fleet = n := by simpa using List.find?_some hf
        rw [h b c (hb ▸ hn) (hb.trans hc.symm)]

/-- A number of the roster is that of an entry of the live FLEET set. -/
theorem rosterIx_entry {s : State} {n : Nat} {b : BusIx} (h : s.rosterIx n = some b) :
    n ≠ 0 ∧ (s.busEntry b).fleet = n := by
  have := List.find?_some h
  simp only [BusEntry.rostered, Bool.and_eq_true, bne_iff_ne, ne_eq, beq_iff_eq] at this
  exact ⟨this.2 ▸ this.1.1, this.2⟩

/-- What the loss of a bus leaves: the law, the FLEET set, and every other bus's stall (R52). -/
theorem loseBus_associated {s : State} (h : Associated s) (b : BusIx) :
    Associated (s.loseBus b) ∧ (s.loseBus b).fleet = s.fleet ∧
      ∀ c, ((s.loseBus b).bus c).stall = if b = c then none else (s.bus c).stall := by
  unfold State.loseBus
  split
  · next i hb =>
    have h0 := (associated_iff_linked s).mp h
    have hi : (s.stall i).bus = some b := (h.named i b).mpr hb
    have hf := h0.endAssoc hi
    have hs : (s.stall i).inService = true := by
      cases k : (s.stall i).inService with
      | true => rfl
      | false =>
        have := h.vacant i k
        rw [(h.session i).mp (by rw [hi]; simp)] at this; cases this
    have guest : Linked (fun j => True ∨ j = i) ((s.endAssoc b i).modStall i fun x => { x with occ := .guest }) := by
      refine Freed.settled hf (fun x => { x with occ := .guest }) hf.bus (by simp) fun k => ?_
      have := (endAssoc_inService s b i i).trans hs
      rw [show ((s.endAssoc b i).stall i).inService = false from k] at this; cases this
    refine ⟨(raise_sameLinks _ _ _ _).associated ((associated_iff_linked _).mpr (guest.mono fun _ _ => .inl trivial)),
      ?_, fun c => ?_⟩
    · rw [State.raise_fleet, State.modStall_fleet]
      exact (endAssoc_outer s b i).fleet
    · unfold State.endAssoc
      rw [State.bus_raise, State.bus_modStall, State.bus_modStall, State.bus_modBus]
      split <;> rfl
  · next hb =>
    refine ⟨h, rfl, fun c => ?_⟩
    split
    · next k => rw [← k, hb]
    · rfl

/-- The loss of several buses (R52). -/
theorem loseBuses_associated {s : State} (h : Associated s) (bs : List BusIx) :
    Associated (s.each bs State.loseBus) ∧ (s.each bs State.loseBus).fleet = s.fleet ∧
      ∀ c, ((s.each bs State.loseBus).bus c).stall = if c ∈ bs then none else (s.bus c).stall := by
  unfold State.each
  induction bs generalizing s with
  | nil => exact ⟨h, rfl, fun c => by simp⟩
  | cons b bs ih =>
    have k := loseBus_associated h b
    have m := ih k.1
    refine ⟨m.1, m.2.1.trans k.2.1, fun c => ?_⟩
    rw [List.foldl_cons, m.2.2 c, k.2.2 c]
    by_cases hc : c ∈ bs <;> by_cases hb : b = c <;> simp [hc, hb, eq_comm]

/-- The match of the bus records to the old set keeps the association law, where every bus with a stall is still an
enabled bus (R52). -/
theorem rematch_associated {s : State} {old : Vector BusEntry 64} (h : Associated s) (ho : FleetDistinct old)
    (hn : FleetDistinct s.fleet.live) (hr : ∀ b i, (s.bus b).stall = some i → s.rosterIx old[b.val].fleet ≠ none) :
    Associated (s.rematch old) := by
  have hst : ∀ i, (s.rematch old).stall i = s.matchedStall old i := fun i => by simp [State.rematch, State.stall]
  have hbs : ∀ b, (s.rematch old).bus b = s.matchedBus old b := fun b => by simp [State.rematch, State.bus]
  have new : ∀ i o, (s.stall i).bus = some o → ∃ b, entryOf s.fleet.live old[o.val].fleet = some b ∧
      (s.matchedStall old i).bus = some b := by
    intro i o hi
    obtain ⟨b, hb⟩ := Option.ne_none_iff_exists'.mp (hr o i ((h.named i o).mp hi))
    have e : entryOf s.fleet.live old[o.val].fleet = some b := (entryOf_iff hn _ _).mpr (rosterIx_entry hb)
    refine ⟨b, e, ?_⟩
    unfold State.matchedStall
    simp only [hi, e]
  have none : ∀ i, (s.stall i).bus = none → s.matchedStall old i = s.stall i := fun i hi => by
    unfold State.matchedStall; simp only [hi]
  have kept : ∀ i, (s.matchedStall old i).occ = (s.stall i).occ ∧
      (s.matchedStall old i).inService = (s.stall i).inService := fun i => by
    unfold State.matchedStall
    dsimp only
    split
    · exact ⟨rfl, rfl⟩
    · split <;> exact ⟨rfl, rfl⟩
  refine ⟨fun i => ?_, fun i b => ?_, fun i hs => ?_⟩
  · rw [hst, (kept i).1, ← h.session i]
    cases hi : (s.stall i).bus with
    | none => rw [none i hi, hi]
    | some o => obtain ⟨b, _, hb⟩ := new i o hi; rw [hb]; simp
  · rw [hst, hbs]
    constructor
    · intro k
      cases hi : (s.stall i).bus with
      | none => rw [none i hi, hi] at k; cases k
      | some o =>
        obtain ⟨c, hc, hb⟩ := new i o hi
        rw [hb] at k
        cases Option.some.inj k
        have hc' := (entryOf_iff hn _ _).mp hc
        have e : entryOf old (s.busEntry b).fleet = some o :=
          (entryOf_iff ho _ _).mpr ⟨by rw [State.busEntry, hc'.2]; exact hc'.1, hc'.2.symm⟩
        unfold State.matchedBus
        simp only [e]
        exact (h.named i o).mp hi
    · intro k
      cases e : entryOf old (s.busEntry b).fleet with
      | none => unfold State.matchedBus at k; simp only [e] at k; cases k
      | some o =>
        unfold State.matchedBus at k
        simp only [e] at k
        have hi := (h.named i o).mpr k
        obtain ⟨c, hc, hb⟩ := new i o hi
        have e' := (entryOf_iff ho _ _).mp e
        have : entryOf s.fleet.live old[o.val].fleet = some b :=
          (entryOf_iff hn _ _).mpr ⟨by rw [e'.2]; exact e'.1, e'.2.symm⟩
        rw [hc] at this
        rw [hb, Option.some.inj this]
  · rw [hst] at hs ⊢
    rw [(kept i).1]
    exact h.vacant i ((kept i).2 ▸ hs)

/-- A FLEET swap keeps the association law, where the used numbers of each set are all different (R52, R172). -/
theorem fleetSwapped_associated {s : State} {old : Vector BusEntry 64} (h : Associated s) (ho : FleetDistinct old)
    (hn : FleetDistinct s.fleet.live) : Associated (s.fleetSwapped old) := by
  have k := loseBuses_associated h (s.losers old)
  have hm : Associated ((s.each (s.losers old) State.loseBus).rematch old) := by
    refine rematch_associated k.1 ho (by rw [k.2.1]; exact hn) fun b i hb hr => ?_
    rw [k.2.2 b] at hb
    split at hb
    · cases hb
    · next hl =>
      refine hl (List.mem_filter.mpr ⟨List.mem_finRange b, ?_⟩)
      have : s.rosterIx old[b.val].fleet = none := by
        have e : ∀ n, (s.each (s.losers old) State.loseBus).rosterIx n = s.rosterIx n := fun n => by
          unfold State.rosterIx State.busEntry; rw [k.2.1]
        rw [← e]; exact hr
      simp [hb, this]
  have settle : ∀ t : State, Inner t t.cancelDeps.sortDeps.evalAll := fun t =>
    ((show Inner t t.cancelDeps from setDeps_inner t _).trans (sortDeps_inner _)).trans (evalAll_inner _)
  have work : ∀ (is : List StallIx) (t : State),
      Inner t ((((t.each is State.dropDischarge).reevalAll).checkLimits allDisps).testHoldback) := fun is t =>
    ((((Inner.each _ dropDischarge_inner (.refl t) is).trans (reevalAll_inner _)).trans (checkLimits_inner _ _)).trans
      (testHoldback_inner _))
  unfold State.fleetSwapped
  exact ((settle _).trans (trackerDone_inner _ _ (work _))).sameLinks.associated hm

end Sys2Proof.Machine
end

