-- ==== Sys2Proof/Laws/Clauses.lean ====
section
/-! SUPPORT. What the statements' own names for the work of the Plant Map and the Readiness Tracker say in the model's
operations: the census's start and advance, a move of the clock, the hand-offs, the active departure, the discharges that end
and the result of a spread; and the numbers of a body. -/

namespace Sys2Proof.Machine

open Sys2Proof

/-! ## The census -/

/-- What `lowestAbove` looks for. -/
theorem lowestAbove_test (p : DispIx → Bool) (o : Option DispIx) (c : DispIx) : (p c && match o with
    | some a => decide (a < c)
    | none => true) = true ↔ p c = true ∧ ∀ q, o = some q → q < c := by
  cases o <;> simp

/-- `lowestAbove` answers the lowest index that satisfies `p` above the position. -/
theorem lowestAbove_some (p : DispIx → Bool) (o : Option DispIx) (a : DispIx)
    (h : p a = true ∧ ∀ q, o = some q → q < a)
    (least : ∀ c, p c = true → (∀ q, o = some q → q < c) → a ≤ c) : lowestAbove p o = some a := by
  unfold lowestAbove
  rw [List.find?_eq_some_iff_getElem]
  refine ⟨(lowestAbove_test p o a).2 h, a.val, by simp [allDisps], by simp [allDisps], fun j hj => ?_⟩
  have hc : (allDisps[j]'(by simp [allDisps]; omega)) = (⟨j, by omega⟩ : DispIx) := by simp [allDisps]
  rw [hc, Bool.not_eq_true', ← Bool.not_eq_true]
  intro found
  obtain ⟨h1, h2⟩ := (lowestAbove_test p o _).1 found
  exact absurd (least _ h1 h2) (by simp [Fin.le_def]; omega)

theorem lowestAbove_none (p : DispIx → Bool) (o : Option DispIx)
    (h : ∀ a, p a = true → ¬ ∀ q, o = some q → q < a) : lowestAbove p o = none := by
  unfold lowestAbove
  rw [List.find?_eq_none]
  intro a _ hc
  cases o with
  | none => simp at hc; exact h a hc nofun
  | some q => simp at hc; exact h a hc.1 fun _ e => by cases e; exact hc.2

/-- The advance of the census is the one of R9 step 6 and R11. -/
theorem probeAdvances_advanceCensus (s : State) : ProbeAdvances s s.advanceCensus := by
  have listed : ∀ c, s.isListed c = true ↔ (s.pres c).presence ≠ .unlisted := by intro c; simp [State.isListed]
  refine ⟨fun a h least => ?_, fun h => ?_⟩
  · unfold State.advanceCensus
    rw [lowestAbove_some s.isListed _ a ⟨(listed a).2 h.1, h.2⟩ fun c h1 h2 => least c ⟨(listed c).1 h1, h2⟩]
    rfl
  · unfold State.advanceCensus
    rw [lowestAbove_none _ _ fun a h1 h2 => h a ⟨(listed a).1 h1, h2⟩]
    rfl

theorem probeDiscarded_eq (s : State) : probeDiscarded s = s.discardProbe := rfl

/-- The start of the census is the one of R7 and R11. -/
theorem censusStarts_startCensus (s : State) : CensusStarts s s.startCensus := by
  have listed : ∀ c, s.isListed c = true ↔ (s.pres c).presence ≠ .unlisted := by intro c; simp [State.isListed]
  let p : Vector PresenceRec 24 := tab fun d => if s.isListed d then { s.pres d with miss := 0 } else s.pres d
  let v : State := { s with
    presence := p
    census := { s.census with running := true, outstanding := false, unlistedSeen := Vector.replicate 24 false } }
  have start : s.startCensus = v.probeNext (lowestAbove v.isListed none) := rfl
  have entry : ∀ d, v.pres d = if s.isListed d then { s.pres d with miss := 0 } else s.pres d := fun d => tab_get _ d
  have same : ∀ d, v.isListed d = s.isListed d := by
    intro d
    unfold State.isListed
    rw [entry d]
    split <;> rfl
  rw [start]
  refine ⟨fun a h least => ?_, fun h => ?_⟩
  · rw [lowestAbove_some v.isListed none a ⟨(same a).trans ((listed a).2 h), nofun⟩ fun c hc _ =>
      Nat.le_of_not_lt fun hl => (listed c).1 ((same c).symm.trans hc) (least c hl)]
    have miss : p = tab fun d => if (s.pres d).presence = .unlisted then s.pres d else { s.pres d with miss := 0 } := by
      refine congrArg tab (funext fun d => ?_)
      by_cases hd : (s.pres d).presence = .unlisted <;> simp [State.isListed, hd]
    rw [← miss]
    rfl
  · have none_listed : ∀ d, s.isListed d = false := fun d => by simp [State.isListed, h d]
    rw [lowestAbove_none v.isListed none fun a ha => absurd ((same a).symm.trans ha) (by simp [none_listed a])]
    have kept : p = s.presence := by
      refine Vector.ext fun i hi => ?_
      have := entry ⟨i, hi⟩
      rw [none_listed] at this
      exact this
    have zero : v.presentCount = 0 := by
      unfold State.presentCount
      refine List.countP_eq_zero.2 fun d _ => ?_
      have := (same d).trans (none_listed d)
      simp [State.isListed] at this
      simp [State.isPresent, this]
    show (v.endCensus) = _
    unfold State.endCensus
    rw [zero]
    simp only [v, kept]
    rfl

/-! ## Moves of the clock and hand-offs -/

theorem recordsReached_eq (s : State) (p : Nat → Bool) : recordsReached s p = s.reachWhere p := rfl

theorem dayRolled_eq (s : State) : dayRolled s = s.dayRoll := by
  unfold dayRolled State.dayRoll State.rolledState
  congr 2
  funext d
  cases d.enabled <;> cases s.rosterIx d.fleet <;> rfl

theorem trackerHandsOn_eq (s : State) (work : State → State) : trackerHandsOn s work = s.trackerDone work := by
  unfold trackerHandsOn State.trackerDone State.each State.protChanges
  congr 1

theorem timeFollows_eq (s : State) : timeFollows s = s.settleTime := by
  unfold timeFollows State.settleTime
  rw [trackerHandsOn_eq]
  rfl

/-- A roster index names an enabled entry of the fleet number. -/
theorem rosterIx_some (s : State) (f : Nat) (b : BusIx) (h : s.rosterIx f = some b) :
    (s.busEntry b).fleet = f ∧ (s.busEntry b).fleet ≠ 0 ∧ (s.busEntry b).enabled ≠ 0#8 := by
  have := List.find?_some h
  simp [BusEntry.rostered] at this
  exact ⟨this.2, this.1.1, this.1.2⟩

/-- The active departure of a bus is its earliest open record (R74). -/
theorem activeAt_iff (s : State) (b : BusIx) (k : Nat) (d : Departure) (hk : s.deps[k]? = some d) :
    ActiveAt s b k d ↔ s.activeOf b = some k := by
  unfold ActiveAt State.activeOf
  have hr : (s.busEntry b).rostered = true ↔ (s.busEntry b).fleet ≠ 0 ∧ (s.busEntry b).enabled ≠ 0#8 := by
    simp [BusEntry.rostered]
  by_cases hb : (s.busEntry b).rostered = true
  · rw [if_pos hb, List.findIdx?_eq_some_iff_getElem]
    obtain ⟨hl, rfl⟩ := List.getElem?_eq_some_iff.1 hk
    have used := hr.1 hb
    constructor
    · rintro ⟨h1, -, -, h4, h5⟩
      refine ⟨hl, by simp [h1, h4], fun j hj => ?_⟩
      have closed := h5 j s.deps[j] hj (List.getElem?_eq_getElem _)
      by_cases h6 : s.deps[j].fleet = s.deps[k].fleet
      · simp [closed h6]
      · simp [← h4, h6]
    · rintro ⟨_, h1, h2⟩
      simp at h1
      refine ⟨h1.2, used.1, used.2, h1.1, fun j x hj hx hf => ?_⟩
      obtain ⟨_, rfl⟩ := List.getElem?_eq_some_iff.1 hx
      have closed := h2 j hj
      simpa [← h1.1, hf] using closed
  · rw [if_neg hb]
    simp only [reduceCtorEq, iff_false]
    rintro ⟨_, h2, h3, _⟩
    exact hb (hr.2 ⟨h2, h3⟩)

/-! ## Discharges that end, and the result of a spread -/

/-- Writing one stall's record leaves the others. -/
theorem setStall_ne (s : State) (i j : StallIx) (x : Stall) (h : j ≠ i) : (s.setStall i x).stall j = s.stall j := by
  have : i.val ≠ j.val := fun e => h (Fin.ext e.symm)
  simp [State.setStall, State.stall, this]

theorem recompute_ne (s : State) (i j : StallIx) (m : Bool) (h : j ≠ i) : (s.recompute i m).stall j = s.stall j := by
  unfold State.recompute State.post State.modStall
  dsimp only
  split
  · rfl
  · exact (setStall_ne _ i j _ h).trans (setStall_ne _ i j _ h)

/-- A discharge hand-off touches the record of its own stall alone. -/
theorem handDischarge_ne (s : State) (i j : StallIx) (e : Option Owner) (h : j ≠ i) :
    (s.handDischarge i e).stall j = s.stall j :=
  (recompute_ne _ i j _ h).trans (setStall_ne _ i j _ h)

/-- The end of a discharge touches the record of its own stall alone. -/
theorem endDischarge_stall_ne (s : State) (i j : StallIx) (h : j ≠ i) : (s.endDischarge i).stall j = s.stall j :=
  (handDischarge_ne _ i j _ h).trans (setStall_ne _ i j _ h)

/-- Work done in turn where a stall's record asks for it is the work at the stalls whose records ask for it beforehand. -/
theorem foldl_where {α : Type} (key : α → StallIx) (P : α → Stall → Bool) (f : State → α → State)
    (hf : ∀ s a j, j ≠ key a → (f s a).stall j = s.stall j) : ∀ (l : List α) (s : State), (l.map key).Nodup →
    l.foldl (fun v a => if P a (v.stall (key a)) = true then f v a else v) s =
      (l.filter fun a => P a (s.stall (key a))).foldl f s
  | [], _, _ => rfl
  | a :: l, s, h => by
    rw [List.map_cons, List.nodup_cons] at h
    have step := fun v => foldl_where key P f hf l v h.2
    rw [List.foldl_cons, step]
    by_cases c : P a (s.stall (key a)) = true
    · rw [if_pos c, List.filter_cons, if_pos c, List.foldl_cons]
      congr 1
      refine List.filter_congr fun b hb => ?_
      rw [hf s a (key b) fun e => h.1 (e ▸ List.mem_map_of_mem hb)]
    · rw [if_neg c, List.filter_cons, if_neg c]

/-- Every discharge of an owner ends, in ascending stall number (R132, R135). -/
theorem endOwned_eq (s : State) (o : Owner) : s.endOwned o =
    (allStalls.filter fun i => (s.stall i).owner == some o).foldl State.endDischarge s := by
  have := foldl_where id (fun _ x => x.owner == some o) State.endDischarge endDischarge_stall_ne allStalls s
    (by rw [List.map_id]; exact (List.nodup_finRange 48))
  refine Eq.trans ?_ this
  unfold State.endOwned State.each
  simp

theorem insertByKey_perm {α : Type} (key : α → Int) (x : α) : ∀ l, (insertByKey key x l).Perm (x :: l)
  | [] => .refl _
  | y :: l => by
    unfold insertByKey
    split
    · exact .refl _
    · exact ((insertByKey_perm key x l).cons y).trans (.swap x y l)

theorem sortByKey_perm {α : Type} (key : α → Int) (l : List α) : (sortByKey key l).Perm l := by
  induction l with
  | nil => exact .refl _
  | cons x l ih => exact (insertByKey_perm key x _).trans (ih.cons x)

/-- A spread visits each candidate once (R129). -/
theorem candidates_nodup (s : State) (o : Owner) : (s.candidates o).Nodup :=
  (sortByKey_perm _ _).nodup_iff.2 ((List.nodup_finRange 48).filter _)

/-- The placements are of the candidates, as visited (R129). -/
theorem placeAll_keys (s : State) (o : Owner) : ∀ l done left,
    (s.placeAll o done left l).1.map (·.1) = done.map (·.1) ++ l
  | [], done, left => by simp [State.placeAll]
  | i :: l, done, left => by simp [State.placeAll, placeAll_keys s o l]

theorem placedFor_zero (i : StallIx) : ∀ ps : List (StallIx × Nat), (ps.map (·.1)).Nodup →
    (placedFor ps i = 0 ↔ (ps.all fun p => p.1 != i || p.2 == 0) = true)
  | [], _ => by simp [placedFor]
  | p :: ps, h => by
    rw [List.map_cons, List.nodup_cons] at h
    have ih := placedFor_zero i ps h.2
    unfold placedFor at ih ⊢
    by_cases e : p.1 = i
    · subst e
      simp
      intro _ a b hab
      left; intro e; subst e
      exact absurd (List.mem_map_of_mem hab) h.1
    · simp [e] at ih ⊢; exact ih

theorem foldl_endDischarge_ne : ∀ (l : List StallIx) (s : State) (i : StallIx), i ∉ l →
    (l.foldl State.endDischarge s).stall i = s.stall i
  | [], _, _, _ => rfl
  | a :: l, s, i, h => by
    simp at h
    rw [List.foldl_cons, foldl_endDischarge_ne l _ i h.2, endDischarge_stall_ne s a i h.1]

/-- What a stall taking a discharge becomes: composed, and posted where its setpoint changed (R113 to R115, R130). -/
theorem setDischarge_eq (v : State) (o : Owner) (p : StallIx × Nat) : v.setDischarge p.1 o p.2 =
      let y : Stall := { v.stall p.1 with
        owner := some o, discharge := p.2, handed := p.2, controller := if o = .storage then .storage else .reserve }
      if y.composed = y.sp then v.setStall p.1 y else { v.setStall p.1 { y with sp := y.composed, lastPosted := v.pathSecond }
        with setQ := postEntry v.setQ p.1 (o == .reserve) } := by
  have g : ∀ (s : State) (x : Stall), (s.setStall p.1 x).stall p.1 = x := fun s x => by simp [State.setStall, State.stall]
  have gg : ∀ (s : State) (x y : Stall), (s.setStall p.1 x).setStall p.1 y = s.setStall p.1 y := fun s x y => by
    simp [State.setStall]
  have hc : controllerAfter (v.stall p.1).controller (some o) none = if o = .storage then .storage else .reserve := by
    cases o <;> rfl
  have hm : (decide (some o = some Owner.reserve) || decide ((none : Option Owner) = some .reserve)) = (o == .reserve) := by
    cases o <;> rfl
  unfold State.setDischarge State.handDischarge State.recompute State.post State.modStall
  simp only [g, gg, Option.isSome_some, if_true, hc, hm]
  split <;> rfl

/-- The result of a spread, applied: the ends, and then the placements that change something (R130). -/
theorem applySpread_eq (s : State) (o : Owner) (ps : List (StallIx × Nat)) (nd : (ps.map (·.1)).Nodup) :
    let loses (i : StallIx) : Bool := (s.stall i).owner == some o && ps.all fun p => p.1 != i || p.2 == 0
    let stands (p : StallIx × Nat) : Bool := (s.stall p.1).owner == some o && (s.stall p.1).discharge == p.2
    s.applySpread o ps = (ps.filter fun p => p.2 != 0 && !stands p).foldl (fun v p => v.setDischarge p.1 o p.2)
      ((allStalls.filter loses).foldl State.endDischarge s) := by
  intro loses stands
  have ends := foldl_where id (fun i y => y.owner == some o && ps.all fun p => p.1 != i || p.2 == 0) State.endDischarge
    endDischarge_stall_ne allStalls s (by rw [List.map_id]; exact (List.nodup_finRange 48))
  have e2 : (allStalls.foldl (fun v i => if (v.stall i).owner = some o ∧ placedFor ps i = 0 then
      v.endDischarge i else v) s) = (allStalls.filter loses).foldl State.endDischarge s := by
    refine Eq.trans ?_ ends
    refine congrArg (fun g => List.foldl g s allStalls) (funext fun v => funext fun i => ?_)
    simp only [placedFor_zero i ps nd, Bool.and_eq_true, beq_iff_eq, id]
  have e3 : s.applySpread o ps = ps.foldl (fun v p => if p.2 = 0 ∨ ((v.stall p.1).owner = some o ∧
      (v.stall p.1).discharge = p.2) then v else v.setDischarge p.1 o p.2)
      ((allStalls.filter loses).foldl State.endDischarge s) := by
    rw [← e2]; rfl
  rw [e3]
  have stay : ∀ p ∈ ps, p.2 ≠ 0 → (((allStalls.filter loses).foldl State.endDischarge s).stall p.1) = s.stall p.1 :=
    fun p hp z => foldl_endDischarge_ne _ _ _ fun hm => by
      have := (List.mem_filter.1 hm).2
      simp only [loses, Bool.and_eq_true, List.all_eq_true] at this
      have := this.2 p hp
      simp [z] at this
  generalize (allStalls.filter loses).foldl State.endDischarge s = s1 at stay ⊢
  have takes := foldl_where Prod.fst (fun p y => p.2 != 0 && !(y.owner == some o && y.discharge == p.2))
    (fun v p => v.setDischarge p.1 o p.2)
    (fun s a j h => (handDischarge_ne _ _ _ _ h).trans (setStall_ne _ _ _ _ h)) ps s1 nd
  have e4 : (ps.filter fun p => p.2 != 0 && !stands p) =
      ps.filter fun p => p.2 != 0 && !((s1.stall p.1).owner == some o && (s1.stall p.1).discharge == p.2) :=
    List.filter_congr fun p hp => by
      by_cases z : p.2 = 0
      · simp [z]
      · rw [stay p hp z]
  rw [e4]
  refine Eq.trans ?_ takes
  refine congrArg (fun g => List.foldl g s1 ps) (funext fun v => funext fun p => ?_)
  by_cases z : p.2 = 0
  · simp [z]
  · by_cases c : (v.stall p.1).owner = some o ∧ (v.stall p.1).discharge = p.2
    · simp [c.1, c.2]
    · have : ((v.stall p.1).owner == some o && (v.stall p.1).discharge == p.2) = false := by
        rw [Bool.eq_false_iff]; simpa using c
      simp [z, c, this]

/-! ## The numbers of a body (12.1, 12.4) -/

theorem rd16_be16 (n : Nat) : rd16 (BitVec.ofNat 8 (n / 256)) (BitVec.ofNat 8 n) = n % 65536 := by
  simp [rd16]; omega

theorem rd32_be32 (n : Nat) (h : n < 4294967296) : rd32 (BitVec.ofNat 8 (n / 16777216)) (BitVec.ofNat 8 (n / 65536))
    (BitVec.ofNat 8 (n / 256)) (BitVec.ofNat 8 n) = n := by
  simp [rd32]; omega

theorem signed_16 (p : BitVec 16) : signed 16 p.toNat = p.toInt := by
  have := p.isLt
  simp only [signed, BitVec.toInt]
  split <;> split <;> omega

theorem signed_32 (p : BitVec 32) : signed 32 p.toNat = p.toInt := by
  have := p.isLt
  simp only [signed, BitVec.toInt]
  split <;> split <;> omega

/-- A composed port record is read as its fields. -/
theorem portRecordOf_composed (a c : Byte) (f q p : BitVec 16) (n : BitVec 32) :
    portRecordOf (a :: (be16 f.toNat ++ be16 q.toNat ++ be16 p.toNat ++ be32 n.toNat ++ [c])) =
      some ⟨a != 0#8, f.toNat, q.toNat, p.toInt, n.toInt, c.toNat⟩ := by
  simp only [be16, be32, List.cons_append, List.nil_append, portRecordOf, rd16_be16, Nat.mod_eq_of_lt f.isLt,
    Nat.mod_eq_of_lt q.isLt, Nat.mod_eq_of_lt p.isLt, rd32_be32 _ n.isLt, signed_16, signed_32]

end Sys2Proof.Machine
end

