-- ==== Sys2Proof/Laws/Finish.lean ====
section
/-! SUPPORT. What the free transmitters may start at the end of a command (R22, R29, R160), and what that leaves as it
was. -/

namespace Sys2Proof.Machine

open Sys2Proof

/-- A free ACTIVE transmitter starts one of four frames, or nothing (R22). -/
theorem startActive_cases (s : State) :
    s.startActive = s ∨ (∃ d, s.startActive = s.startProbe d) ∨ (∃ d, s.startActive = s.startPoll d) ∨
      (∃ i, s.startActive = s.startSet i) ∨
      (∃ f, s.startActive = s.countBetween.setTx s.active (some (.pass f))) := by
  have q : s.startQueued = s ∨ (∃ i, s.startQueued = s.startSet i) ∨
      (∃ f, s.startQueued = s.countBetween.setTx s.active (some (.pass f))) := by
    unfold State.startQueued
    split
    · exact .inr (.inl ⟨_, rfl⟩)
    · exact .inr (.inr ⟨_, rfl⟩)
    · exact .inl rfl
  unfold State.startActive
  split
  · exact .inl rfl
  · split
    · split
      · rcases q with h | h | h
        · exact .inl h
        · exact .inr (.inr (.inr (.inl h)))
        · exact .inr (.inr (.inr (.inr h)))
      · exact .inl rfl
    · split
      · exact .inr (.inl ⟨_, rfl⟩)
      · exact .inr (.inr (.inl ⟨_, rfl⟩))
      · rcases q with h | h | h
        · exact .inl h
        · exact .inr (.inr (.inr (.inl h)))
        · exact .inr (.inr (.inr (.inr h)))

/-- A CHECK starts, or nothing (R29). -/
theorem startCheck_cases (s : State) :
    s.startCheck = s ∨ ∃ d, s.startCheck =
      s.setLine s.standby { s.line s.standby with tx := some (.check d), rotation := some d, checkDue := false } := by
  unfold State.startCheck
  dsimp only
  split
  · split
    · exact .inr ⟨_, rfl⟩
    · exact .inl rfl
  · exact .inl rfl

/-- The office transmitter starts a response, an event frame, a forwarded frame, or nothing (R160). -/
theorem startOffice_cases (s : State) :
    s.startOffice = s ∨ (∃ x, s.startOffice = { s with office := { s.office with tx := some x } }) ∨
      s.startOffice =
        { s with office := { s.office with tx := some s.events.compose.1 }, events := s.events.compose.2 } := by
  unfold State.startOffice
  split
  · exact .inl rfl
  · split
    · exact .inr (.inl ⟨_, rfl⟩)
    · split
      · exact .inr (.inr rfl)
      · split
        · exact .inr (.inl ⟨_, rfl⟩)
        · split
          · exact .inr (.inr rfl)
          · exact .inl rfl

section startActive

variable (s : State)

@[simp] theorem State.startActive_plant : s.startActive.plant = s.plant := by
  rcases startActive_cases s with h | ⟨d, h⟩ | ⟨d, h⟩ | ⟨i, h⟩ | ⟨g, h⟩ <;> rw [h] <;>
    simp [State.startProbe, State.startPoll, State.startSet, State.countBetween]
@[simp] theorem State.startActive_fleet : s.startActive.fleet = s.fleet := by
  rcases startActive_cases s with h | ⟨d, h⟩ | ⟨d, h⟩ | ⟨i, h⟩ | ⟨g, h⟩ <;> rw [h] <;>
    simp [State.startProbe, State.startPoll, State.startSet, State.countBetween]
@[simp] theorem State.startActive_schedule : s.startActive.schedule = s.schedule := by
  rcases startActive_cases s with h | ⟨d, h⟩ | ⟨d, h⟩ | ⟨i, h⟩ | ⟨g, h⟩ <;> rw [h] <;>
    simp [State.startProbe, State.startPoll, State.startSet, State.countBetween]
@[simp] theorem State.startActive_grid : s.startActive.grid = s.grid := by
  rcases startActive_cases s with h | ⟨d, h⟩ | ⟨d, h⟩ | ⟨i, h⟩ | ⟨g, h⟩ <;> rw [h] <;>
    simp [State.startProbe, State.startPoll, State.startSet, State.countBetween]
@[simp] theorem State.startActive_policy : s.startActive.policy = s.policy := by
  rcases startActive_cases s with h | ⟨d, h⟩ | ⟨d, h⟩ | ⟨i, h⟩ | ⟨g, h⟩ <;> rw [h] <;>
    simp [State.startProbe, State.startPoll, State.startSet, State.countBetween]
@[simp] theorem State.startActive_lock : s.startActive.lock = s.lock := by
  rcases startActive_cases s with h | ⟨d, h⟩ | ⟨d, h⟩ | ⟨i, h⟩ | ⟨g, h⟩ <;> rw [h] <;>
    simp [State.startProbe, State.startPoll, State.startSet, State.countBetween]
@[simp] theorem State.startActive_configured : s.startActive.configured = s.configured := by
  rcases startActive_cases s with h | ⟨d, h⟩ | ⟨d, h⟩ | ⟨i, h⟩ | ⟨g, h⟩ <;> rw [h] <;>
    simp [State.startProbe, State.startPoll, State.startSet, State.countBetween]
@[simp] theorem State.startActive_resetCause : s.startActive.resetCause = s.resetCause := by
  rcases startActive_cases s with h | ⟨d, h⟩ | ⟨d, h⟩ | ⟨i, h⟩ | ⟨g, h⟩ <;> rw [h] <;>
    simp [State.startProbe, State.startPoll, State.startSet, State.countBetween]
@[simp] theorem State.startActive_superv : s.startActive.superv = s.superv := by
  rcases startActive_cases s with h | ⟨d, h⟩ | ⟨d, h⟩ | ⟨i, h⟩ | ⟨g, h⟩ <;> rw [h] <;>
    simp [State.startProbe, State.startPoll, State.startSet, State.countBetween]
@[simp] theorem State.startActive_office : s.startActive.office = s.office := by
  rcases startActive_cases s with h | ⟨d, h⟩ | ⟨d, h⟩ | ⟨i, h⟩ | ⟨g, h⟩ <;> rw [h] <;>
    simp [State.startProbe, State.startPoll, State.startSet, State.countBetween]
@[simp] theorem State.startActive_active : s.startActive.active = s.active := by
  rcases startActive_cases s with h | ⟨d, h⟩ | ⟨d, h⟩ | ⟨i, h⟩ | ⟨g, h⟩ <;> rw [h] <;>
    simp [State.startProbe, State.startPoll, State.startSet, State.countBetween]
@[simp] theorem State.startActive_passQ : s.startActive.passQ = s.passQ := by
  rcases startActive_cases s with h | ⟨d, h⟩ | ⟨d, h⟩ | ⟨i, h⟩ | ⟨g, h⟩ <;> rw [h] <;>
    simp [State.startProbe, State.startPoll, State.startSet, State.countBetween]
@[simp] theorem State.startActive_probed : s.startActive.probed = s.probed := by
  rcases startActive_cases s with h | ⟨d, h⟩ | ⟨d, h⟩ | ⟨i, h⟩ | ⟨g, h⟩ <;> rw [h] <;>
    simp [State.startProbe, State.startPoll, State.startSet, State.countBetween]
@[simp] theorem State.startActive_window : s.startActive.window = s.window := by
  rcases startActive_cases s with h | ⟨d, h⟩ | ⟨d, h⟩ | ⟨i, h⟩ | ⟨g, h⟩ <;> rw [h] <;>
    simp [State.startProbe, State.startPoll, State.startSet, State.countBetween]
@[simp] theorem State.startActive_test : s.startActive.test = s.test := by
  rcases startActive_cases s with h | ⟨d, h⟩ | ⟨d, h⟩ | ⟨i, h⟩ | ⟨g, h⟩ <;> rw [h] <;>
    simp [State.startProbe, State.startPoll, State.startSet, State.countBetween]
@[simp] theorem State.startActive_presence : s.startActive.presence = s.presence := by
  rcases startActive_cases s with h | ⟨d, h⟩ | ⟨d, h⟩ | ⟨i, h⟩ | ⟨g, h⟩ <;> rw [h] <;>
    simp [State.startProbe, State.startPoll, State.startSet, State.countBetween]
@[simp] theorem State.startActive_stalls : s.startActive.stalls = s.stalls := by
  rcases startActive_cases s with h | ⟨d, h⟩ | ⟨d, h⟩ | ⟨i, h⟩ | ⟨g, h⟩ <;> rw [h] <;>
    simp [State.startProbe, State.startPoll, State.startSet, State.countBetween]
@[simp] theorem State.startActive_buses : s.startActive.buses = s.buses := by
  rcases startActive_cases s with h | ⟨d, h⟩ | ⟨d, h⟩ | ⟨i, h⟩ | ⟨g, h⟩ <;> rw [h] <;>
    simp [State.startProbe, State.startPoll, State.startSet, State.countBetween]
@[simp] theorem State.startActive_site : s.startActive.site = s.site := by
  rcases startActive_cases s with h | ⟨d, h⟩ | ⟨d, h⟩ | ⟨i, h⟩ | ⟨g, h⟩ <;> rw [h] <;>
    simp [State.startProbe, State.startPoll, State.startSet, State.countBetween]
@[simp] theorem State.startActive_clock : s.startActive.clock = s.clock := by
  rcases startActive_cases s with h | ⟨d, h⟩ | ⟨d, h⟩ | ⟨i, h⟩ | ⟨g, h⟩ <;> rw [h] <;>
    simp [State.startProbe, State.startPoll, State.startSet, State.countBetween]
@[simp] theorem State.startActive_deps : s.startActive.deps = s.deps := by
  rcases startActive_cases s with h | ⟨d, h⟩ | ⟨d, h⟩ | ⟨i, h⟩ | ⟨g, h⟩ <;> rw [h] <;>
    simp [State.startProbe, State.startPoll, State.startSet, State.countBetween]
@[simp] theorem State.startActive_alloc : s.startActive.alloc = s.alloc := by
  rcases startActive_cases s with h | ⟨d, h⟩ | ⟨d, h⟩ | ⟨i, h⟩ | ⟨g, h⟩ <;> rw [h] <;>
    simp [State.startProbe, State.startPoll, State.startSet, State.countBetween]
@[simp] theorem State.startActive_pathSecond : s.startActive.pathSecond = s.pathSecond := by
  rcases startActive_cases s with h | ⟨d, h⟩ | ⟨d, h⟩ | ⟨i, h⟩ | ⟨g, h⟩ <;> rw [h] <;>
    simp [State.startProbe, State.startPoll, State.startSet, State.countBetween]
@[simp] theorem State.startActive_storage : s.startActive.storage = s.storage := by
  rcases startActive_cases s with h | ⟨d, h⟩ | ⟨d, h⟩ | ⟨i, h⟩ | ⟨g, h⟩ <;> rw [h] <;>
    simp [State.startProbe, State.startPoll, State.startSet, State.countBetween]
@[simp] theorem State.startActive_reserve : s.startActive.reserve = s.reserve := by
  rcases startActive_cases s with h | ⟨d, h⟩ | ⟨d, h⟩ | ⟨i, h⟩ | ⟨g, h⟩ <;> rw [h] <;>
    simp [State.startProbe, State.startPoll, State.startSet, State.countBetween]
@[simp] theorem State.startActive_events : s.startActive.events = s.events := by
  rcases startActive_cases s with h | ⟨d, h⟩ | ⟨d, h⟩ | ⟨i, h⟩ | ⟨g, h⟩ <;> rw [h] <;>
    simp [State.startProbe, State.startPoll, State.startSet, State.countBetween]
@[simp] theorem State.startActive_freeCount : s.startActive.freeCount = s.freeCount := by
  rcases startActive_cases s with h | ⟨d, h⟩ | ⟨d, h⟩ | ⟨i, h⟩ | ⟨g, h⟩ <;> rw [h] <;>
    simp [State.startProbe, State.startPoll, State.startSet, State.countBetween]
@[simp] theorem State.startActive_pending : s.startActive.pending = s.pending := by
  rcases startActive_cases s with h | ⟨d, h⟩ | ⟨d, h⟩ | ⟨i, h⟩ | ⟨g, h⟩ <;> rw [h] <;>
    simp [State.startProbe, State.startPoll, State.startSet, State.countBetween]

end startActive

section startCheck

variable (s : State)

@[simp] theorem State.startCheck_plant : s.startCheck.plant = s.plant := by
  rcases startCheck_cases s with h | ⟨d, h⟩ <;> rw [h] <;> simp
@[simp] theorem State.startCheck_fleet : s.startCheck.fleet = s.fleet := by
  rcases startCheck_cases s with h | ⟨d, h⟩ <;> rw [h] <;> simp
@[simp] theorem State.startCheck_schedule : s.startCheck.schedule = s.schedule := by
  rcases startCheck_cases s with h | ⟨d, h⟩ <;> rw [h] <;> simp
@[simp] theorem State.startCheck_grid : s.startCheck.grid = s.grid := by
  rcases startCheck_cases s with h | ⟨d, h⟩ <;> rw [h] <;> simp
@[simp] theorem State.startCheck_policy : s.startCheck.policy = s.policy := by
  rcases startCheck_cases s with h | ⟨d, h⟩ <;> rw [h] <;> simp
@[simp] theorem State.startCheck_lock : s.startCheck.lock = s.lock := by
  rcases startCheck_cases s with h | ⟨d, h⟩ <;> rw [h] <;> simp
@[simp] theorem State.startCheck_configured : s.startCheck.configured = s.configured := by
  rcases startCheck_cases s with h | ⟨d, h⟩ <;> rw [h] <;> simp
@[simp] theorem State.startCheck_resetCause : s.startCheck.resetCause = s.resetCause := by
  rcases startCheck_cases s with h | ⟨d, h⟩ <;> rw [h] <;> simp
@[simp] theorem State.startCheck_superv : s.startCheck.superv = s.superv := by
  rcases startCheck_cases s with h | ⟨d, h⟩ <;> rw [h] <;> simp
@[simp] theorem State.startCheck_office : s.startCheck.office = s.office := by
  rcases startCheck_cases s with h | ⟨d, h⟩ <;> rw [h] <;> simp
@[simp] theorem State.startCheck_active : s.startCheck.active = s.active := by
  rcases startCheck_cases s with h | ⟨d, h⟩ <;> rw [h] <;> simp
@[simp] theorem State.startCheck_setQ : s.startCheck.setQ = s.setQ := by
  rcases startCheck_cases s with h | ⟨d, h⟩ <;> rw [h] <;> simp
@[simp] theorem State.startCheck_passQ : s.startCheck.passQ = s.passQ := by
  rcases startCheck_cases s with h | ⟨d, h⟩ <;> rw [h] <;> simp
@[simp] theorem State.startCheck_pollPos : s.startCheck.pollPos = s.pollPos := by
  rcases startCheck_cases s with h | ⟨d, h⟩ <;> rw [h] <;> simp
@[simp] theorem State.startCheck_between : s.startCheck.between = s.between := by
  rcases startCheck_cases s with h | ⟨d, h⟩ <;> rw [h] <;> simp
@[simp] theorem State.startCheck_probed : s.startCheck.probed = s.probed := by
  rcases startCheck_cases s with h | ⟨d, h⟩ <;> rw [h] <;> simp
@[simp] theorem State.startCheck_window : s.startCheck.window = s.window := by
  rcases startCheck_cases s with h | ⟨d, h⟩ <;> rw [h] <;> simp
@[simp] theorem State.startCheck_test : s.startCheck.test = s.test := by
  rcases startCheck_cases s with h | ⟨d, h⟩ <;> rw [h] <;> simp
@[simp] theorem State.startCheck_presence : s.startCheck.presence = s.presence := by
  rcases startCheck_cases s with h | ⟨d, h⟩ <;> rw [h] <;> simp
@[simp] theorem State.startCheck_census : s.startCheck.census = s.census := by
  rcases startCheck_cases s with h | ⟨d, h⟩ <;> rw [h] <;> simp
@[simp] theorem State.startCheck_stalls : s.startCheck.stalls = s.stalls := by
  rcases startCheck_cases s with h | ⟨d, h⟩ <;> rw [h] <;> simp
@[simp] theorem State.startCheck_buses : s.startCheck.buses = s.buses := by
  rcases startCheck_cases s with h | ⟨d, h⟩ <;> rw [h] <;> simp
@[simp] theorem State.startCheck_site : s.startCheck.site = s.site := by
  rcases startCheck_cases s with h | ⟨d, h⟩ <;> rw [h] <;> simp
@[simp] theorem State.startCheck_clock : s.startCheck.clock = s.clock := by
  rcases startCheck_cases s with h | ⟨d, h⟩ <;> rw [h] <;> simp
@[simp] theorem State.startCheck_deps : s.startCheck.deps = s.deps := by
  rcases startCheck_cases s with h | ⟨d, h⟩ <;> rw [h] <;> simp
@[simp] theorem State.startCheck_alloc : s.startCheck.alloc = s.alloc := by
  rcases startCheck_cases s with h | ⟨d, h⟩ <;> rw [h] <;> simp
@[simp] theorem State.startCheck_pathSecond : s.startCheck.pathSecond = s.pathSecond := by
  rcases startCheck_cases s with h | ⟨d, h⟩ <;> rw [h] <;> simp
@[simp] theorem State.startCheck_storage : s.startCheck.storage = s.storage := by
  rcases startCheck_cases s with h | ⟨d, h⟩ <;> rw [h] <;> simp
@[simp] theorem State.startCheck_reserve : s.startCheck.reserve = s.reserve := by
  rcases startCheck_cases s with h | ⟨d, h⟩ <;> rw [h] <;> simp
@[simp] theorem State.startCheck_events : s.startCheck.events = s.events := by
  rcases startCheck_cases s with h | ⟨d, h⟩ <;> rw [h] <;> simp
@[simp] theorem State.startCheck_freeCount : s.startCheck.freeCount = s.freeCount := by
  rcases startCheck_cases s with h | ⟨d, h⟩ <;> rw [h] <;> simp
@[simp] theorem State.startCheck_pending : s.startCheck.pending = s.pending := by
  rcases startCheck_cases s with h | ⟨d, h⟩ <;> rw [h] <;> simp

end startCheck

section startOffice

variable (s : State)

@[simp] theorem State.startOffice_plant : s.startOffice.plant = s.plant := by
  rcases startOffice_cases s with h | ⟨x, h⟩ | h <;> rw [h]
@[simp] theorem State.startOffice_fleet : s.startOffice.fleet = s.fleet := by
  rcases startOffice_cases s with h | ⟨x, h⟩ | h <;> rw [h]
@[simp] theorem State.startOffice_schedule : s.startOffice.schedule = s.schedule := by
  rcases startOffice_cases s with h | ⟨x, h⟩ | h <;> rw [h]
@[simp] theorem State.startOffice_grid : s.startOffice.grid = s.grid := by
  rcases startOffice_cases s with h | ⟨x, h⟩ | h <;> rw [h]
@[simp] theorem State.startOffice_policy : s.startOffice.policy = s.policy := by
  rcases startOffice_cases s with h | ⟨x, h⟩ | h <;> rw [h]
@[simp] theorem State.startOffice_lock : s.startOffice.lock = s.lock := by
  rcases startOffice_cases s with h | ⟨x, h⟩ | h <;> rw [h]
@[simp] theorem State.startOffice_configured : s.startOffice.configured = s.configured := by
  rcases startOffice_cases s with h | ⟨x, h⟩ | h <;> rw [h]
@[simp] theorem State.startOffice_resetCause : s.startOffice.resetCause = s.resetCause := by
  rcases startOffice_cases s with h | ⟨x, h⟩ | h <;> rw [h]
@[simp] theorem State.startOffice_superv : s.startOffice.superv = s.superv := by
  rcases startOffice_cases s with h | ⟨x, h⟩ | h <;> rw [h]
@[simp] theorem State.startOffice_lineA : s.startOffice.lineA = s.lineA := by
  rcases startOffice_cases s with h | ⟨x, h⟩ | h <;> rw [h]
@[simp] theorem State.startOffice_lineB : s.startOffice.lineB = s.lineB := by
  rcases startOffice_cases s with h | ⟨x, h⟩ | h <;> rw [h]
@[simp] theorem State.startOffice_active : s.startOffice.active = s.active := by
  rcases startOffice_cases s with h | ⟨x, h⟩ | h <;> rw [h]
@[simp] theorem State.startOffice_setQ : s.startOffice.setQ = s.setQ := by
  rcases startOffice_cases s with h | ⟨x, h⟩ | h <;> rw [h]
@[simp] theorem State.startOffice_passQ : s.startOffice.passQ = s.passQ := by
  rcases startOffice_cases s with h | ⟨x, h⟩ | h <;> rw [h]
@[simp] theorem State.startOffice_pollPos : s.startOffice.pollPos = s.pollPos := by
  rcases startOffice_cases s with h | ⟨x, h⟩ | h <;> rw [h]
@[simp] theorem State.startOffice_between : s.startOffice.between = s.between := by
  rcases startOffice_cases s with h | ⟨x, h⟩ | h <;> rw [h]
@[simp] theorem State.startOffice_probed : s.startOffice.probed = s.probed := by
  rcases startOffice_cases s with h | ⟨x, h⟩ | h <;> rw [h]
@[simp] theorem State.startOffice_window : s.startOffice.window = s.window := by
  rcases startOffice_cases s with h | ⟨x, h⟩ | h <;> rw [h]
@[simp] theorem State.startOffice_test : s.startOffice.test = s.test := by
  rcases startOffice_cases s with h | ⟨x, h⟩ | h <;> rw [h]
@[simp] theorem State.startOffice_presence : s.startOffice.presence = s.presence := by
  rcases startOffice_cases s with h | ⟨x, h⟩ | h <;> rw [h]
@[simp] theorem State.startOffice_census : s.startOffice.census = s.census := by
  rcases startOffice_cases s with h | ⟨x, h⟩ | h <;> rw [h]
@[simp] theorem State.startOffice_stalls : s.startOffice.stalls = s.stalls := by
  rcases startOffice_cases s with h | ⟨x, h⟩ | h <;> rw [h]
@[simp] theorem State.startOffice_buses : s.startOffice.buses = s.buses := by
  rcases startOffice_cases s with h | ⟨x, h⟩ | h <;> rw [h]
@[simp] theorem State.startOffice_site : s.startOffice.site = s.site := by
  rcases startOffice_cases s with h | ⟨x, h⟩ | h <;> rw [h]
@[simp] theorem State.startOffice_clock : s.startOffice.clock = s.clock := by
  rcases startOffice_cases s with h | ⟨x, h⟩ | h <;> rw [h]
@[simp] theorem State.startOffice_deps : s.startOffice.deps = s.deps := by
  rcases startOffice_cases s with h | ⟨x, h⟩ | h <;> rw [h]
@[simp] theorem State.startOffice_alloc : s.startOffice.alloc = s.alloc := by
  rcases startOffice_cases s with h | ⟨x, h⟩ | h <;> rw [h]
@[simp] theorem State.startOffice_pathSecond : s.startOffice.pathSecond = s.pathSecond := by
  rcases startOffice_cases s with h | ⟨x, h⟩ | h <;> rw [h]
@[simp] theorem State.startOffice_storage : s.startOffice.storage = s.storage := by
  rcases startOffice_cases s with h | ⟨x, h⟩ | h <;> rw [h]
@[simp] theorem State.startOffice_reserve : s.startOffice.reserve = s.reserve := by
  rcases startOffice_cases s with h | ⟨x, h⟩ | h <;> rw [h]
@[simp] theorem State.startOffice_freeCount : s.startOffice.freeCount = s.freeCount := by
  rcases startOffice_cases s with h | ⟨x, h⟩ | h <;> rw [h]
@[simp] theorem State.startOffice_pending : s.startOffice.pending = s.pending := by
  rcases startOffice_cases s with h | ⟨x, h⟩ | h <;> rw [h]

end startOffice

section finish

variable (s : State)

@[simp] theorem State.finish_plant : s.finish.plant = s.plant := by simp [State.finish]
@[simp] theorem State.finish_fleet : s.finish.fleet = s.fleet := by simp [State.finish]
@[simp] theorem State.finish_schedule : s.finish.schedule = s.schedule := by simp [State.finish]
@[simp] theorem State.finish_grid : s.finish.grid = s.grid := by simp [State.finish]
@[simp] theorem State.finish_policy : s.finish.policy = s.policy := by simp [State.finish]
@[simp] theorem State.finish_lock : s.finish.lock = s.lock := by simp [State.finish]
@[simp] theorem State.finish_configured : s.finish.configured = s.configured := by simp [State.finish]
@[simp] theorem State.finish_resetCause : s.finish.resetCause = s.resetCause := by simp [State.finish]
@[simp] theorem State.finish_superv : s.finish.superv = s.superv := by simp [State.finish]
@[simp] theorem State.finish_active : s.finish.active = s.active := by simp [State.finish]
@[simp] theorem State.finish_passQ : s.finish.passQ = s.passQ := by simp [State.finish]
@[simp] theorem State.finish_probed : s.finish.probed = s.probed := by simp [State.finish]
@[simp] theorem State.finish_window : s.finish.window = s.window := by simp [State.finish]
@[simp] theorem State.finish_test : s.finish.test = s.test := by simp [State.finish]
@[simp] theorem State.finish_presence : s.finish.presence = s.presence := by simp [State.finish]
@[simp] theorem State.finish_stalls : s.finish.stalls = s.stalls := by simp [State.finish]
@[simp] theorem State.finish_buses : s.finish.buses = s.buses := by simp [State.finish]
@[simp] theorem State.finish_site : s.finish.site = s.site := by simp [State.finish]
@[simp] theorem State.finish_clock : s.finish.clock = s.clock := by simp [State.finish]
@[simp] theorem State.finish_deps : s.finish.deps = s.deps := by simp [State.finish]
@[simp] theorem State.finish_alloc : s.finish.alloc = s.alloc := by simp [State.finish]
@[simp] theorem State.finish_pathSecond : s.finish.pathSecond = s.pathSecond := by simp [State.finish]
@[simp] theorem State.finish_storage : s.finish.storage = s.storage := by simp [State.finish]
@[simp] theorem State.finish_reserve : s.finish.reserve = s.reserve := by simp [State.finish]
@[simp] theorem State.finish_freeCount : s.finish.freeCount = s.freeCount := by simp [State.finish]
@[simp] theorem State.finish_pending : s.finish.pending = s.pending := by simp [State.finish]

end finish

/-! ## The fields that are touched -/

/-- A stall line after its transmitter has taken something up. -/
def StallLineState.taken (x y : StallLineState) : StallLineState :=
  { x with tx := y.tx, rotation := y.rotation, checkDue := y.checkDue }

theorem startActive_line (s : State) (m : StallLine) : s.startActive.line m = (s.line m).taken (s.startActive.line m) := by
  have k : ∀ (u : State) (x : Option StallTx), (∀ m, u.line m = s.line m) →
      (u.setTx s.active x).line m = (s.line m).taken ((u.setTx s.active x).line m) := by
    intro u x h
    rw [← h m]
    simp only [State.setTx, State.modLine, State.line_setLine]
    split
    · next e => subst e; rfl
    · rfl
  rcases startActive_cases s with h | ⟨d, h⟩ | ⟨d, h⟩ | ⟨i, h⟩ | ⟨g, h⟩ <;> rw [h]
  · rfl
  · exact k _ _ fun m => by cases m <;> rfl
  · exact k _ _ fun m => by cases m <;> rfl
  · exact k _ _ fun m => by cases m <;> rfl
  · exact k _ _ fun m => by cases m <;> rfl

theorem startCheck_line (s : State) (m : StallLine) : s.startCheck.line m = (s.line m).taken (s.startCheck.line m) := by
  rcases startCheck_cases s with h | ⟨d, h⟩ <;> rw [h]
  · rfl
  · simp only [State.line_setLine]
    split
    · next e => subst e; rfl
    · rfl

@[simp] theorem startOffice_line (s : State) (m : StallLine) : s.startOffice.line m = s.line m := by
  cases m <;> simp [State.line]

/-- The end of a command leaves each stall line as it was, but for what its transmitter has started. -/
theorem finish_line (s : State) (m : StallLine) : s.finish.line m = (s.line m).taken (s.finish.line m) := by
  simp only [State.finish, startOffice_line]
  rw [startCheck_line, startActive_line]
  rfl

/-- Marking entries in flight leaves every entry's stall and reserve mark. -/
theorem map_key_mark (q : List SetEntry) (p : SetEntry → Bool) (v : Bool) :
    (q.map fun e => if p e then { e with inFlight := v } else e).map SetEntry.key = q.map SetEntry.key := by
  rw [List.map_map]
  apply List.map_congr_left
  intro e _
  simp only [Function.comp]
  split <;> rfl

/-- The end of a command keeps the setpoint queue's entries, their order and their reserve marks. -/
theorem finish_setQ (s : State) : s.finish.setQ.map SetEntry.key = s.setQ.map SetEntry.key := by
  simp only [State.finish, State.startOffice_setQ, State.startCheck_setQ]
  rcases startActive_cases s with h | ⟨d, h⟩ | ⟨d, h⟩ | ⟨i, h⟩ | ⟨g, h⟩ <;> rw [h]
  · simp [State.startProbe, State.countBetween]
  · simp [State.startPoll]
  · simpa [State.startSet, State.countBetween] using map_key_mark s.setQ (fun e => e.stall == i) true
  · simp [State.countBetween]

theorem startActive_census (s : State) :
    s.startActive.census.running = s.census.running ∧ s.startActive.census.probe = s.census.probe ∧
      s.startActive.census.unlistedSeen = s.census.unlistedSeen := by
  rcases startActive_cases s with h | ⟨d, h⟩ | ⟨d, h⟩ | ⟨i, h⟩ | ⟨g, h⟩ <;> rw [h] <;>
    simp [State.startProbe, State.startPoll, State.startSet, State.countBetween]

/-- Taking records into a frame marks them and moves none. -/
theorem takeRecs_records (p : QueuedRec → Bool) (n : Nat) (q : List QueuedRec) :
    (takeRecs p n q).2.map (·.record) = q.map (·.record) := by
  induction q generalizing n with
  | nil => cases n <;> rfl
  | cons a q ih =>
    cases n with
    | zero => rfl
    | succ n => unfold takeRecs; dsimp only; split <;> simp [ih]

theorem stopIfEmpty_queue (e : EventQueue) : e.stopIfEmpty.queue = e.queue := by
  unfold EventQueue.stopIfEmpty; split <;> rfl

/-- Composing an event frame leaves the records in the queue, in order (R179). -/
theorem compose_records (e : EventQueue) : e.compose.2.queue.map (·.record) = e.queue.map (·.record) := by
  simp only [EventQueue.compose, stopIfEmpty_queue, takeRecs_records]

/-- The end of a command leaves the records in the event queue, in order. -/
theorem finish_records (s : State) : s.finish.records = s.records := by
  simp only [State.records, State.finish]
  rcases startOffice_cases (s.startActive.startCheck) with h | ⟨x, h⟩ | h <;> rw [h]
  · simp
  · simp
  · simp only [compose_records]; simp

/-- The end of a command changes of the Office Port only what its transmitter is sending. -/
theorem finish_office (s : State) : ∃ x, s.finish.office = { s.office with tx := x } := by
  simp only [State.finish]
  rcases startOffice_cases (s.startActive.startCheck) with h | ⟨x, h⟩ | h <;> rw [h]
  · exact ⟨s.office.tx, by simp⟩
  · exact ⟨some x, by simp⟩
  · exact ⟨_, by simp; rfl⟩

/-- The end of a command only starts what the free transmitters have to send. -/
theorem finish_started (s : State) : Started s s.finish := by
  refine ⟨?_, finish_setQ s, finish_records s⟩
  obtain ⟨c1, c2, c3⟩ := startActive_census s
  obtain ⟨x, o⟩ := finish_office s
  apply State.ext
  case lineA => exact finish_line s .a
  case lineB => exact finish_line s .b
  case office => rw [o]
  case census =>
    have e : s.finish.census = s.startActive.census := by simp [State.finish]
    show s.finish.census = { s.census with outstanding := s.finish.census.outstanding }
    dsimp only
    rw [e, ← c1, ← c2, ← c3]
  all_goals simp

end Sys2Proof.Machine
end

