-- ==== Sys2Proof/Laws/Octets.lean ====
section
/-! SUPPORT. The two CRCs an octet at a time as the registers of R182 and R183 a bit at a time. -/

namespace Sys2Proof.Machine

open Sys2Proof

/-! ## CRC-16 (R182): the highest bit of an octet goes in first -/

theorem crc16Bit_xor (c d : BitVec 16) : crc16Bit (c ^^^ d) =
    (c <<< 1 ^^^ (if c.msb = d.msb then 0x0000#16 else 0x1021#16)) ^^^ d <<< 1 := by
  unfold crc16Bit
  rw [BitVec.msb_xor, BitVec.shiftLeft_xor_distrib]
  cases c.msb <;> cases d.msb <;> simp [BitVec.xor_assoc, BitVec.xor_comm (d <<< 1)]

theorem crc16Step_eq (c : BitVec 16) (o : Byte) : crc16Step c o = (List.range 8).foldl (fun (c : BitVec 16) k =>
    (c <<< 1) ^^^ (if c.msb = o.getLsbD (7 - k) then 0x0000#16 else 0x1021#16)) c := by
  have bits : ∀ n, n ≤ 8 → (List.range n).foldl (fun c _ => crc16Bit c) (c ^^^ o.setWidth 16 <<< 8) =
      (List.range n).foldl (fun (c : BitVec 16) k =>
        (c <<< 1) ^^^ (if c.msb = o.getLsbD (7 - k) then 0x0000#16 else 0x1021#16)) c ^^^ o.setWidth 16 <<< (8 + n) := by
    intro n hn
    induction n with
    | zero => simp
    | succ n ih =>
      have top : (o.setWidth 16 <<< (8 + n) : BitVec 16).msb = o.getLsbD (7 - n) := by
        have : 15 - (8 + n) = 7 - n := by omega
        simp [BitVec.msb_eq_getLsbD_last, this]
        omega
      rw [List.range_succ, List.foldl_append, List.foldl_append, ih (by omega)]
      simp only [List.foldl_cons, List.foldl_nil]
      rw [crc16Bit_xor, top, ← BitVec.shiftLeft_add]
      rfl
  have gone : (o.setWidth 16 <<< (8 + 8) : BitVec 16) = 0#16 := BitVec.shiftLeft_eq_zero (Nat.le_refl _)
  have h := bits 8 (Nat.le_refl _)
  rw [gone, BitVec.xor_zero] at h
  exact h

theorem crc16_append (os : List Byte) (o : Byte) : crc16 (os ++ [o]) = crc16Step (crc16 os) o := by
  simp [crc16]

/-! ## CRC-32 (R183): the lowest bit of an octet goes in first -/

theorem crc32Bit_xor (c d : BitVec 32) : crc32Bit (c ^^^ d) =
    (c >>> 1 ^^^ (if c.getLsbD 0 = d.getLsbD 0 then 0x00000000#32 else 0xEDB88320#32)) ^^^ d >>> 1 := by
  unfold crc32Bit
  rw [BitVec.getLsbD_xor, BitVec.ushiftRight_xor_distrib]
  cases c.getLsbD 0 <;> cases d.getLsbD 0 <;> simp [BitVec.xor_assoc, BitVec.xor_comm (d >>> 1)]

theorem crc32Step_eq (c : BitVec 32) (o : Byte) : crc32Step c o = (List.range 8).foldl (fun (c : BitVec 32) k =>
    (c >>> 1) ^^^ (if c.getLsbD 0 = o.getLsbD k then 0x00000000#32 else 0xEDB88320#32)) c := by
  have bits : ∀ n, n ≤ 8 → (List.range n).foldl (fun c _ => crc32Bit c) (c ^^^ o.setWidth 32) =
      (List.range n).foldl (fun (c : BitVec 32) k =>
        (c >>> 1) ^^^ (if c.getLsbD 0 = o.getLsbD k then 0x00000000#32 else 0xEDB88320#32)) c ^^^
          o.setWidth 32 >>> n := by
    intro n hn
    induction n with
    | zero => simp
    | succ n ih =>
      have low : (o.setWidth 32 >>> n : BitVec 32).getLsbD 0 = o.getLsbD n := by
        simp; omega
      rw [List.range_succ, List.foldl_append, List.foldl_append, ih (by omega)]
      simp only [List.foldl_cons, List.foldl_nil]
      rw [crc32Bit_xor, low, ← BitVec.shiftRight_add]
  have gone : (o.setWidth 32 >>> 8 : BitVec 32) = 0#32 := by
    apply BitVec.eq_of_toNat_eq
    have := o.isLt
    simp [Nat.shiftRight_eq_div_pow]
    omega
  have h := bits 8 (Nat.le_refl _)
  rw [gone, BitVec.xor_zero] at h
  exact h

theorem crc32_append (os : List Byte) (o : Byte) : ~~~ crc32 (os ++ [o]) = crc32Step (~~~ crc32 os) o := by
  have inv : ∀ c : BitVec 32, ~~~ (c ^^^ 0xFFFFFFFF#32) = c := fun c => by
    have : 0xFFFFFFFF#32 = BitVec.allOnes 32 := rfl
    rw [this, BitVec.xor_allOnes, BitVec.not_not]
  simp [crc32, inv]

end Sys2Proof.Machine
end

