-- ==== Sys2Proof/Laws/Ownership.lean ====
section
/-! SUPPORT. The ownership law (R130, R132, R134): what each operation of the Discharge Coordinator, the Reserve
Controller and their callers makes of it. One lemma per operation, cited by the next. -/

-- Elaborated one after another, these proofs need one thread's memory.
set_option Elab.async false

namespace Sys2Proof.Machine

open Sys2Proof

/-! ## What leaves the owners, and what takes none for storage -/

/-- What the ownership law reads of a state is as it was. -/
structure SameOwners (s t : State) : Prop where
  owner     : ∀ i, (t.stall i).owner = (s.stall i).owner
  discharge : ∀ i, (t.stall i).discharge = (s.stall i).discharge
  storage   : t.storage = s.storage
  reserve   : t.reserve.state = s.reserve.state

theorem SameOwners.refl (s : State) : SameOwners s s := ⟨fun _ => rfl, fun _ => rfl, rfl, rfl⟩

theorem SameOwners.trans {s t u : State} (h : SameOwners s t) (k : SameOwners t u) : SameOwners s u where
  owner i := (k.owner i).trans (h.owner i)
  discharge i := (k.discharge i).trans (h.discharge i)
  storage := k.storage.trans h.storage
  reserve := k.reserve.trans h.reserve

/-- No stall comes to be owned by STORAGE, and one with no owner has discharge 0 if that was so before; storage and the
reserve state are as they were. -/
structure FewerOwners (s t : State) : Prop where
  unowned : (∀ i, (s.stall i).owner = none → (s.stall i).discharge = 0) →
    ∀ i, (t.stall i).owner = none → (t.stall i).discharge = 0
  storing : ∀ i, (t.stall i).owner = some .storage → (s.stall i).owner = some .storage
  storage : t.storage = s.storage
  reserve : t.reserve.state = s.reserve.state

theorem FewerOwners.refl (s : State) : FewerOwners s s := ⟨id, fun _ => id, rfl, rfl⟩

theorem FewerOwners.trans {s t u : State} (h : FewerOwners s t) (k : FewerOwners t u) : FewerOwners s u where
  unowned p := k.unowned (h.unowned p)
  storing i p := h.storing i (k.storing i p)
  storage := k.storage.trans h.storage
  reserve := k.reserve.trans h.reserve

theorem SameOwners.fewer {s t : State} (h : SameOwners s t) : FewerOwners s t where
  unowned p i := by rw [h.owner, h.discharge]; exact p i
  storing i := by rw [h.owner]; exact id
  storage := h.storage
  reserve := h.reserve

theorem SameOwners.each {α : Type} {s u : State} (f : State → α → State) (hf : ∀ s a, SameOwners s (f s a))
    (h : SameOwners s u) (is : List α) : SameOwners s (u.each is f) := by
  unfold State.each
  induction is generalizing u with
  | nil => exact h
  | cons a is ih => exact ih (h.trans (hf u a))

theorem FewerOwners.each {α : Type} {s u : State} (f : State → α → State) (hf : ∀ s a, FewerOwners s (f s a))
    (h : FewerOwners s u) (is : List α) : FewerOwners s (u.each is f) := by
  unfold State.each
  induction is generalizing u with
  | nil => exact h
  | cons a is ih => exact ih (h.trans (hf u a))

/-- The ownership law but for what it says of the reserve: what holds before storage is examined (R132). -/
structure OwnersKnown (s : State) : Prop where
  unowned : ∀ i, (s.stall i).owner = none → (s.stall i).discharge = 0
  shaving : ∀ i, (s.stall i).owner = some .storage → s.storage.state = .shaving

theorem OwnersLawful.known {s : State} (h : OwnersLawful s) : OwnersKnown s := ⟨h.unowned, h.shaving⟩

theorem FewerOwners.known {s t : State} (h : FewerOwners s t) (k : OwnersKnown s) : OwnersKnown t where
  unowned := h.unowned k.unowned
  shaving i p := by rw [h.storage]; exact k.shaving i (h.storing i p)

theorem FewerOwners.lawful {s t : State} (h : FewerOwners s t) (k : OwnersLawful s) : OwnersLawful t where
  unowned := h.unowned k.unowned
  shaving i p := by rw [h.storage]; exact k.shaving i (h.storing i p)
  yields p := by
    rw [h.reserve] at p
    rw [h.storage]
    exact ⟨(k.yields p).1, fun i q => (k.yields p).2 i (h.storing i q)⟩

theorem SameOwners.lawful {s t : State} (h : SameOwners s t) (k : OwnersLawful s) : OwnersLawful t := h.fewer.lawful k

/-- An operation applied at each of a list keeps the law when each application does. -/
theorem OwnersLawful.each {α : Type} {s : State} (f : State → α → State)
    (hf : ∀ s a, OwnersLawful s → OwnersLawful (f s a)) (h : OwnersLawful s) (is : List α) :
    OwnersLawful (s.each is f) := by
  unfold State.each
  induction is generalizing s with
  | nil => exact h
  | cons a is ih => exact ih (hf s a h)

/-! ## What leaves the owners as they were -/

theorem raise_sameOwners (s : State) (k : EventKind) (x : Subject) (p : Int) : SameOwners s (s.raise k x p) :=
  ⟨fun _ => rfl, fun _ => rfl, rfl, rfl⟩

theorem setStall_sameOwners (s : State) (i : StallIx) (x : Stall) (ho : x.owner = (s.stall i).owner)
    (hd : x.discharge = (s.stall i).discharge) : SameOwners s (s.setStall i x) := by
  refine ⟨fun j => ?_, fun j => ?_, rfl, rfl⟩
  · rw [State.stall_setStall]; split
    · next h => rw [← h, ho]
    · rfl
  · rw [State.stall_setStall]; split
    · next h => rw [← h, hd]
    · rfl

theorem modStall_sameOwners (s : State) (i : StallIx) (f : Stall → Stall) (h : ∀ x : Stall,
    (f x).owner = x.owner ∧ (f x).discharge = x.discharge) : SameOwners s (s.modStall i f) :=
  setStall_sameOwners s i _ (h _).1 (h _).2

theorem modBus_sameOwners (s : State) (b : BusIx) (f : Bus → Bus) : SameOwners s (s.modBus b f) :=
  ⟨fun _ => rfl, fun _ => rfl, rfl, rfl⟩

theorem modAct_sameOwners (s : State) (f : Activation → Activation) : SameOwners s (s.modAct f) :=
  ⟨fun _ => rfl, fun _ => rfl, rfl, rfl⟩

theorem setHeld_sameOwners (s : State) (h : List (StallIx × Nat)) : SameOwners s (s.setHeld h) :=
  ⟨fun _ => rfl, fun _ => rfl, rfl, rfl⟩

theorem setDeps_sameOwners (s : State) (ds : List Departure) : SameOwners s { s with deps := ds } :=
  ⟨fun _ => rfl, fun _ => rfl, rfl, rfl⟩

theorem post_sameOwners (s : State) (i : StallIx) (m : Bool) : SameOwners s (s.post i m) := by
  obtain ⟨a, b, c, d⟩ := setStall_sameOwners s i { s.stall i with lastPosted := s.pathSecond } rfl rfl
  exact ⟨a, b, c, d⟩

theorem recompute_sameOwners (s : State) (i : StallIx) (m : Bool) : SameOwners s (s.recompute i m) := by
  unfold State.recompute
  dsimp only
  split
  · exact .refl s
  · exact (setStall_sameOwners s i { s.stall i with sp := (s.stall i).composed } rfl rfl).trans (post_sameOwners _ _ _)

theorem handDischarge_sameOwners (s : State) (i : StallIx) (e : Option Owner) : SameOwners s (s.handDischarge i e) := by
  unfold State.handDischarge
  refine .trans ?_ (recompute_sameOwners _ _ _)
  exact setStall_sameOwners _ _ _ rfl rfl

theorem reserveTake_sameOwners (s : State) (i : StallIx) : SameOwners s (s.reserveTake i) := by
  unfold State.reserveTake
  refine .trans (modStall_sameOwners _ _ _ ?_) (recompute_sameOwners _ _ _)
  exact fun _ => ⟨rfl, rfl⟩

theorem reserveReturn_sameOwners (s : State) (i : StallIx) : SameOwners s (s.reserveReturn i) := by
  unfold State.reserveReturn
  refine .trans (modStall_sameOwners _ _ _ ?_) (recompute_sameOwners _ _ _)
  exact fun _ => ⟨rfl, rfl⟩

theorem sessionStart_sameOwners (s : State) (i : StallIx) : SameOwners s (s.sessionStart i) := by
  unfold State.sessionStart
  refine .trans ?_ (post_sameOwners _ _ _)
  exact setStall_sameOwners _ _ { s.stall i with sp := (s.stall i).composed } rfl rfl

theorem sessionEnd_sameOwners (s : State) (i : StallIx) : SameOwners s (s.sessionEnd i) := by
  unfold State.sessionEnd
  refine .trans ?_ (post_sameOwners _ _ _)
  refine modStall_sameOwners _ _ _ ?_
  exact fun _ => ⟨rfl, rfl⟩

/-! ## The Discharge Coordinator (08) -/

/-- A discharge ends: its stall has no owner, and no other stall's owner or discharge moves (R127 step 1). -/
theorem endDischarge_owner (s : State) (i j : StallIx) :
    ((s.endDischarge i).stall j).owner = (if i = j then none else (s.stall j).owner) ∧
      ((s.endDischarge i).stall j).discharge = if i = j then 0 else (s.stall j).discharge := by
  unfold State.endDischarge
  dsimp only
  have k := handDischarge_sameOwners (s.modStall i fun x => { x with owner := none, discharge := 0 }) i (s.stall i).owner
  rw [k.owner, k.discharge, State.stall_modStall]
  split <;> exact ⟨rfl, rfl⟩

theorem endDischarge_fewer (s : State) (i : StallIx) : FewerOwners s (s.endDischarge i) := by
  refine ⟨fun h j => ?_, fun j => ?_, ?_, ?_⟩
  · rw [(endDischarge_owner s i j).1, (endDischarge_owner s i j).2]
    split
    · exact fun _ => rfl
    · exact h j
  · rw [(endDischarge_owner s i j).1]
    split
    · exact fun k => by cases k
    · exact id
  · exact (handDischarge_sameOwners (s.modStall i fun x => { x with owner := none, discharge := 0 }) i _).storage
  · exact (handDischarge_sameOwners (s.modStall i fun x => { x with owner := none, discharge := 0 }) i _).reserve

/-- A stall takes an owner and a discharge; no other stall's move (R130). -/
theorem setDischarge_owner (s : State) (i j : StallIx) (o : Owner) (n : Nat) :
    ((s.setDischarge i o n).stall j).owner = (if i = j then some o else (s.stall j).owner) ∧
      ((s.setDischarge i o n).stall j).discharge = (if i = j then n else (s.stall j).discharge) ∧
      (s.setDischarge i o n).storage = s.storage ∧ (s.setDischarge i o n).reserve.state = s.reserve.state := by
  unfold State.setDischarge
  have k := handDischarge_sameOwners (s.modStall i fun x => { x with owner := some o, discharge := n }) i none
  rw [k.owner, k.discharge, k.storage, k.reserve, State.stall_modStall]
  split <;> exact ⟨rfl, rfl, rfl, rfl⟩

/-- After the discharges of an owner have ended, none is left, and no other stall's owner moves. -/
theorem endOwned_fewer (s : State) (o : Owner) :
    FewerOwners s (s.endOwned o) ∧ ∀ i, ((s.endOwned o).stall i).owner ≠ some o := by
  have run : ∀ (is : List StallIx) (t : State), FewerOwners t (t.each is fun s i =>
      if (s.stall i).owner = some o then s.endDischarge i else s) ∧
      ∀ i, ((t.each is fun s i => if (s.stall i).owner = some o then s.endDischarge i else s).stall i).owner =
        some o → (t.stall i).owner = some o ∧ i ∉ is := by
    intro is
    induction is with
    | nil => exact fun t => ⟨.refl t, fun i h => ⟨h, by simp⟩⟩
    | cons a is ih =>
      intro t
      have k := ih (if (t.stall a).owner = some o then t.endDischarge a else t)
      have f : FewerOwners t (if (t.stall a).owner = some o then t.endDischarge a else t) := by
        split
        · exact endDischarge_fewer t a
        · exact .refl t
      refine ⟨f.trans k.1, fun i h => ?_⟩
      obtain ⟨h1, h2⟩ := k.2 i h
      split at h1
      · next e =>
        rw [(endDischarge_owner t a i).1] at h1
        split at h1
        · cases h1
        · next hn => exact ⟨h1, by simp [h2, Ne.symm hn]⟩
      · next e => exact ⟨h1, by simp only [List.mem_cons, not_or]; exact ⟨fun c => e (c ▸ h1), h2⟩⟩
  exact ⟨(run _ s).1, fun i h => ((run _ s).2 i h).2 (List.mem_finRange i)⟩

/-- What a spread does to the owners (R130): only stalls placed an amount take its owner; those of the owner that are
placed nothing lose it. -/
theorem applySpread_owner (s : State) (o : Owner) (ps : List (StallIx × Nat)) : let t := s.applySpread o ps
    ((∀ i, (s.stall i).owner = none → (s.stall i).discharge = 0) →
      ∀ i, (t.stall i).owner = none → (t.stall i).discharge = 0) ∧
    (∀ i p, p ≠ o → (t.stall i).owner = some p → (s.stall i).owner = some p) ∧
    ((∀ p ∈ ps, p.2 = 0) → ∀ i, (t.stall i).owner ≠ some o) ∧
    t.storage = s.storage ∧ t.reserve.state = s.reserve.state := by
  intro t
  let ends (t : State) (is : List StallIx) : State :=
    t.each is fun s i => if (s.stall i).owner = some o ∧ placedFor ps i = 0 then s.endDischarge i else s
  have first : ∀ (is : List StallIx) (u : State), FewerOwners u (ends u is) ∧
      (∀ i p, p ≠ o → ((ends u is).stall i).owner = some p → (u.stall i).owner = some p) ∧
      ∀ i, placedFor ps i = 0 → ((ends u is).stall i).owner = some o → (u.stall i).owner = some o ∧ i ∉ is := by
    intro is
    induction is with
    | nil => exact fun u => ⟨.refl u, fun _ _ _ => id, fun i _ h => ⟨h, by simp⟩⟩
    | cons a is ih =>
      intro u
      let v := if (u.stall a).owner = some o ∧ placedFor ps a = 0 then u.endDischarge a else u
      have k := ih v
      have f : FewerOwners u v := by
        unfold v; split
        · exact endDischarge_fewer u a
        · exact .refl u
      have g : ∀ i p, (v.stall i).owner = some p → (u.stall i).owner = some p := by
        intro i p h
        unfold v at h
        split at h
        · rw [(endDischarge_owner u a i).1] at h
          split at h
          · cases h
          · exact h
        · exact h
      refine ⟨f.trans k.1, fun i p hp h => g i p (k.2.1 i p hp h), fun i hi h => ?_⟩
      obtain ⟨h1, h2⟩ := k.2.2 i hi h
      refine ⟨g i o h1, ?_⟩
      simp only [List.mem_cons, not_or]
      refine ⟨fun c => ?_, h2⟩
      subst c
      have hu := g i o h1
      unfold v at h1
      rw [if_pos ⟨hu, hi⟩, (endDischarge_owner u i i).1, if_pos rfl] at h1
      cases h1
  let places (u : State) (qs : List (StallIx × Nat)) : State := u.each qs fun s p =>
    if p.2 = 0 ∨ ((s.stall p.1).owner = some o ∧ (s.stall p.1).discharge = p.2) then s else s.setDischarge p.1 o p.2
  have second : ∀ (qs : List (StallIx × Nat)) (u : State),
      ((∀ i, (u.stall i).owner = none → (u.stall i).discharge = 0) →
        ∀ i, ((places u qs).stall i).owner = none → ((places u qs).stall i).discharge = 0) ∧
      (∀ i p, p ≠ o → ((places u qs).stall i).owner = some p → (u.stall i).owner = some p) ∧
      ((∀ p ∈ qs, p.2 = 0) → places u qs = u) ∧
      (places u qs).storage = u.storage ∧ (places u qs).reserve.state = u.reserve.state := by
    intro qs
    induction qs with
    | nil => exact fun u => ⟨id, fun _ _ _ => id, fun _ => rfl, rfl, rfl⟩
    | cons q qs ih =>
      intro u
      by_cases c : q.2 = 0 ∨ ((u.stall q.1).owner = some o ∧ (u.stall q.1).discharge = q.2)
      · have e : places u (q :: qs) = places u qs := by unfold places State.each; rw [List.foldl_cons, if_pos c]
        rw [e]
        exact ⟨(ih u).1, (ih u).2.1, fun h => (ih u).2.2.1 fun p hp => h p (List.mem_cons_of_mem _ hp), (ih u).2.2.2⟩
      · have e : places u (q :: qs) = places (u.setDischarge q.1 o q.2) qs := by
          unfold places State.each; rw [List.foldl_cons, if_neg c]
        have k := ih (u.setDischarge q.1 o q.2)
        have w := setDischarge_owner u q.1
        rw [e]
        refine ⟨fun h => k.1 fun i => ?_, fun i p hp h => ?_, fun h => ?_, ?_, ?_⟩
        · rw [(w i o q.2).1, (w i o q.2).2.1]
          split
          · exact fun n => by cases n
          · exact h i
        · have := k.2.1 i p hp h
          rw [(w i o q.2).1] at this
          split at this
          · exact absurd (Option.some.inj this).symm hp
          · exact this
        · exact absurd (.inl (h q (List.mem_cons_self ..))) c
        · exact k.2.2.2.1.trans (w q.1 o q.2).2.2.1
        · exact k.2.2.2.2.trans (w q.1 o q.2).2.2.2
  have a := first allStalls s
  have b := second ps (ends s allStalls)
  refine ⟨fun h => b.1 (a.1.unowned h), fun i p hp h => a.2.1 i p hp (b.2.1 i p hp h), fun h i hi => ?_,
    b.2.2.2.1.trans a.1.storage, b.2.2.2.2.trans a.1.reserve⟩
  have hz : placedFor ps i = 0 := by
    unfold placedFor
    split
    · next p hp => exact h p (List.mem_of_find?_eq_some hp)
    · rfl
  have e : (places (ends s allStalls) ps) = ends s allStalls := b.2.2.1 h
  have hi' : ((ends s allStalls).stall i).owner = some o := e ▸ hi
  exact (a.2.2 i hz hi').2 (List.mem_finRange i)

/-- A spread for the reserve takes no stall for storage (R129, R130). -/
theorem reserveSpread_of_fewer (s : State) (n : Nat) : FewerOwners s (s.spread .reserve n).1 := by
  have k := applySpread_owner s .reserve (s.placeAll .reserve [] n (s.candidates .reserve)).1
  exact ⟨k.1, fun i => k.2.1 i .storage (by simp), k.2.2.2.1, k.2.2.2.2⟩

theorem reserveSpread_fewer (s : State) : FewerOwners s s.reserveSpread := by
  unfold State.reserveSpread
  split
  · dsimp only
    split
    · exact ((reserveSpread_of_fewer s _).trans (modAct_sameOwners _ _).fewer).trans (raise_sameOwners _ _ _ _).fewer
    · exact (reserveSpread_of_fewer s _).trans (modAct_sameOwners _ _).fewer
  · exact .refl s

/-- The members of a list with sum 0 are 0. -/
theorem sum_zero {ns : List Nat} (h : ns.sum = 0) : ∀ n ∈ ns, n = 0 := by
  induction ns with
  | nil => exact fun _ hn => by cases hn
  | cons a ns ih =>
    rw [List.sum_cons] at h
    intro n hn
    rcases List.mem_cons.mp hn with c | c
    · omega
    · exact ih (by omega) n c

/-- A storage spread that places nothing leaves no STORAGE discharge (R130). -/
theorem storageSpread_owner (s : State) (n : Nat) : let t := s.storageSpread n
    ((∀ i, (s.stall i).owner = none → (s.stall i).discharge = 0) →
      ∀ i, (t.stall i).owner = none → (t.stall i).discharge = 0) ∧
    (t.storage.placed = 0 → ∀ i, (t.stall i).owner ≠ some .storage) ∧
    t.storage.state = s.storage.state ∧ t.reserve.state = s.reserve.state := by
  have k := applySpread_owner s .storage (s.placeAll .storage [] n (s.candidates .storage)).1
  refine ⟨k.1, fun h => k.2.2.1 fun p hp => ?_, ?_, k.2.2.2.2⟩
  · exact sum_zero h _ (List.mem_map_of_mem hp)
  · show (s.applySpread .storage _).storage.state = s.storage.state
    rw [k.2.2.2.1]

theorem setStorage_owner (s : State) (x : StorageState) (i : StallIx) : ((s.setStorage x).stall i) = s.stall i := rfl

/-- Storage that owns nothing takes a state other than SHAVING, with the reserve neither ACTIVE nor in RECOVERY. -/
theorem setStorage_lawful {s : State} (h : ∀ i, (s.stall i).owner = none → (s.stall i).discharge = 0)
    (n : ∀ i, (s.stall i).owner ≠ some .storage) (x : StorageState)
    (r : s.reserve.state = .active ∨ s.reserve.state = .recovery → x = .inhibited) : OwnersLawful (s.setStorage x) :=
  ⟨h, fun i p => absurd p (n i), fun p => ⟨r p, n⟩⟩

/-- Storage examined keeps the law, and brings it about where only the reserve state has moved (R132). -/
theorem examineStorage_lawful {s : State} (h : OwnersKnown s) : OwnersLawful s.examineStorage := by
  unfold State.examineStorage
  split
  · split
    · next hs =>
      have n : ∀ i, (s.stall i).owner ≠ some .storage := fun i p => by rw [h.shaving i p] at hs; cases hs
      exact ⟨h.unowned, fun i p => absurd p (n i), fun _ => ⟨hs, n⟩⟩
    · next hs =>
      refine setStorage_lawful h.unowned (fun i p => ?_) _ fun _ => rfl
      rw [h.shaving i p] at hs; cases hs
    · have k := endOwned_fewer s .storage
      exact (raise_sameOwners _ _ _ _).lawful (setStorage_lawful (k.1.unowned h.unowned) k.2 _ fun _ => rfl)
  · next hi =>
    have free : ¬ (s.reserve.state = .active ∨ s.reserve.state = .recovery) := fun c => hi (by
      unfold State.storageInhibited
      rcases c with c | c <;> simp [c])
    split
    · next hs =>
      refine setStorage_lawful h.unowned (fun i p => ?_) _ fun c => absurd c free
      rw [h.shaving i p] at hs; cases hs
    · exact ⟨h.unowned, h.shaving, fun c => absurd c free⟩

/-- While storage is SHAVING the reserve is neither ACTIVE nor in RECOVERY. -/
theorem OwnersLawful.free {s : State} (h : OwnersLawful s) (hs : s.storage.state ≠ .inhibited) :
    ¬ (s.reserve.state = .active ∨ s.reserve.state = .recovery) := fun c => hs (h.yields c).1

/-- Every storage discharge ended, storage becomes IDLE (R134, R135). -/
theorem endShaving_lawful {s : State} (h : OwnersLawful s) (hs : s.storage.state = .shaving) :
    OwnersLawful ((s.endOwned .storage).setStorage .idle) := by
  have k := endOwned_fewer s .storage
  refine setStorage_lawful (k.1.unowned h.unowned) k.2 _ fun c => ?_
  rw [k.1.reserve] at c
  exact absurd c (h.free (by rw [hs]; simp))

theorem testHoldback_lawful {s : State} (h : OwnersLawful s) : OwnersLawful s.testHoldback := by
  unfold State.testHoldback
  split
  · next c => exact (raise_sameOwners _ _ _ _).lawful (endShaving_lawful h c.1)
  · exact h

theorem respreadStorage_lawful {s : State} (h : OwnersLawful s) (hs : s.storage.state = .shaving) (n : Nat) :
    OwnersLawful (s.respreadStorage n) := by
  have k := storageSpread_owner s n
  have free : ¬ ((s.storageSpread n).reserve.state = .active ∨ (s.storageSpread n).reserve.state = .recovery) := by
    rw [k.2.2.2]; exact h.free (by rw [hs]; simp)
  unfold State.respreadStorage
  dsimp only
  split
  · next hp =>
    exact (raise_sameOwners _ _ _ _).lawful (setStorage_lawful (k.1 h.unowned) (k.2.1 hp) _ fun c => absurd c free)
  · exact ⟨k.1 h.unowned, fun _ _ => k.2.2.1.trans hs, fun c => absurd c free⟩

theorem storageEnded_lawful {s : State} (h : OwnersLawful s) : OwnersLawful s.storageEnded := by
  unfold State.storageEnded
  dsimp only
  split
  · next c => exact respreadStorage_lawful (testHoldback_lawful h) c _
  · exact testHoldback_lawful h

/-- Storage at a sample keeps the law (R133, R134). -/
theorem storageSample_lawful {s : State} (h : OwnersLawful s) : OwnersLawful s.storageSample := by
  unfold State.storageSample
  split
  · exact h
  · next hs =>
    dsimp only
    split
    · have k := storageSpread_owner s s.shaveTarget
      have free : ¬ ((s.storageSpread s.shaveTarget).reserve.state = .active ∨
          (s.storageSpread s.shaveTarget).reserve.state = .recovery) := by
        rw [k.2.2.2]; exact h.free (by rw [hs]; simp)
      split
      · exact (raise_sameOwners _ _ _ _).lawful ⟨k.1 h.unowned, fun _ _ => rfl, fun c => absurd c free⟩
      · next hp =>
        exact ⟨k.1 h.unowned, fun i p => absurd p (k.2.1 (by omega) i), fun c => absurd c free⟩
    · exact h
  · dsimp only
    split
    · next c =>
      split
      · exact (raise_sameOwners _ _ _ _).lawful (endShaving_lawful (testHoldback_lawful h) c)
      · split
        · exact respreadStorage_lawful (testHoldback_lawful h) c _
        · exact testHoldback_lawful h
    · exact testHoldback_lawful h

theorem dropDischarge_lawful {s : State} (h : OwnersLawful s) (i : StallIx) : OwnersLawful (s.dropDischarge i) := by
  unfold State.dropDischarge
  split
  · exact h
  · exact ((endDischarge_fewer s i).trans (reserveSpread_fewer _)).lawful h
  · exact storageEnded_lawful ((endDischarge_fewer s i).lawful h)

/-- A re-evaluation keeps the law (R126, R127). -/
theorem reeval_lawful {s : State} (h : OwnersLawful s) (b : BusIx) : OwnersLawful (s.reeval b) := by
  unfold State.reeval
  dsimp only
  have m : OwnersLawful (s.modBus b fun x => { x with lendable := s.lendableNow b }) := (modBus_sameOwners s b _).lawful h
  have k : OwnersLawful (match (s.bus b).stall with
      | none => s.modBus b fun x => { x with lendable := s.lendableNow b }
      | some i =>
        if s.lendableNow b = 0 then (s.modBus b fun x => { x with lendable := s.lendableNow b }).dropDischarge i
        else if (s.bus b).lendable = 0 then
          (s.modBus b fun x => { x with lendable := s.lendableNow b }).reserveSpread
        else s.modBus b fun x => { x with lendable := s.lendableNow b }) := by
    split
    · exact m
    · split
      · exact dropDischarge_lawful m _
      · split
        · exact (reserveSpread_fewer _).lawful m
        · exact m
  split
  · exact k
  · exact testHoldback_lawful k

theorem reevalAll_lawful {s : State} (h : OwnersLawful s) : OwnersLawful s.reevalAll := .each _ (fun _ b k => reeval_lawful k b) h _

/-! ## Falling limits (R131) -/

/-- A stall's discharge is lowered, or ended at 0; no other stall's owner or discharge moves (R131). -/
theorem lowerDischarge_owner (s : State) (p : StallIx × Nat) (j : StallIx) :
    ((s.lowerDischarge p).stall j).owner = (if p.1 = j ∧ p.2 = 0 then none else (s.stall j).owner) ∧
      ((s.lowerDischarge p).stall j).discharge = (if p.1 = j then p.2 else (s.stall j).discharge) ∧
      (s.lowerDischarge p).storage = s.storage ∧ (s.lowerDischarge p).reserve.state = s.reserve.state := by
  unfold State.lowerDischarge
  split
  · next h =>
    have f := endDischarge_fewer s p.1
    rw [(endDischarge_owner s p.1 j).1, (endDischarge_owner s p.1 j).2]
    refine ⟨?_, ?_, f.storage, f.reserve⟩
    · by_cases c : p.1 = j <;> simp [c, h]
    · by_cases c : p.1 = j <;> simp [c, h]
  · next h =>
    have k := handDischarge_sameOwners (s.modStall p.1 fun x => { x with discharge := p.2 }) p.1 none
    rw [k.owner, k.discharge, k.storage, k.reserve, State.stall_modStall]
    refine ⟨?_, ?_, rfl, rfl⟩
    · by_cases c : p.1 = j <;> simp [c, h]
    · by_cases c : p.1 = j <;> simp [c]

/-- Each lowered stall has an owner while its discharge is above 0 (R131). -/
theorem lowerAll_fewer (s : State) (ps : List (StallIx × Nat))
    (h : ∀ p ∈ ps, p.2 = 0 ∨ (s.stall p.1).owner ≠ none)
    (one : ∀ p ∈ ps, ∀ q ∈ ps, p.1 = q.1 → p.2 = q.2) : FewerOwners s (s.each ps State.lowerDischarge) := by
  unfold State.each
  induction ps generalizing s with
  | nil => exact .refl s
  | cons p ps ih =>
    have w := lowerDischarge_owner s p
    have f : FewerOwners s (s.lowerDischarge p) := by
      refine ⟨fun k j => ?_, fun j => ?_, (w p.1).2.2.1, (w p.1).2.2.2⟩
      · rw [(w j).1, (w j).2.1]
        by_cases c : p.1 = j
        · rw [if_pos c]
          intro n
          rcases h p (List.mem_cons_self ..) with z | z
          · exact z
          · by_cases z' : p.2 = 0
            · exact z'
            · rw [if_neg (fun d => z' d.2)] at n; exact absurd n (c ▸ z)
        · rw [if_neg (fun d => c d.1), if_neg c]; exact k j
      · rw [(w j).1]
        split
        · exact fun n => by cases n
        · exact id
    refine f.trans (ih _ (fun q hq => ?_) fun a ha b hb => one a (List.mem_cons_of_mem _ ha) b (List.mem_cons_of_mem _ hb))
    rcases h q (List.mem_cons_of_mem _ hq) with z | z
    · exact .inl z
    · by_cases z' : q.2 = 0
      · exact .inl z'
      · refine .inr ?_
        rw [(w q.1).1, if_neg]
        · exact z
        · rintro ⟨e, e'⟩
          exact z' ((one p (List.mem_cons_self ..) q (List.mem_cons_of_mem _ hq) e).symm.trans e')

theorem mem_overLimit {s : State} {ds : List DispIx} {p : StallIx × Nat} (h : p ∈ s.overLimit ds) :
    (s.stall p.1).owner ≠ none ∧ p.2 = s.limitedDischarge p.1 := by
  unfold State.overLimit at h
  obtain ⟨i, -, hi⟩ := List.mem_filterMap.mp h
  split at hi
  · next c =>
    cases hi
    exact ⟨fun n => by simp [n] at c, rfl⟩
  · cases hi

/-- The check of the limits keeps the law (R131). -/
theorem checkLimits_lawful {s : State} (h : OwnersLawful s) (ds : List DispIx) : OwnersLawful (s.checkLimits ds) := by
  have low := lowerAll_fewer s (s.overLimit ds) (fun p hp => .inr (mem_overLimit hp).1)
    (fun p hp q hq e => by rw [(mem_overLimit hp).2, (mem_overLimit hq).2, e])
  have again := FewerOwners.each (fun s (_ : StallIx × Nat) => s.reserveSpread) (fun s _ => reserveSpread_fewer s) low
    ((s.overLimit ds).filter fun p => (s.stall p.1).owner = some .reserve)
  unfold State.checkLimits
  dsimp only
  split
  · exact storageEnded_lawful (again.lawful h)
  · exact again.lawful h

/-! ## The Reserve Controller (09) -/

theorem armingEvent_sameOwners (s : State) (a : ReserveState) (b c : Option WinIx) (d : ReserveState) :
    SameOwners s (s.armingEvent a b c d) := by
  unfold State.armingEvent
  split
  · exact raise_sameOwners _ _ _ _
  · exact raise_sameOwners _ _ _ _
  · split
    · exact raise_sameOwners _ _ _ _
    · exact .refl s
  · exact .refl s

/-- The arming evaluation keeps the law, from whatever reserve state it is made (R139, R153). -/
theorem armingEval_lawful {s : State} (h : OwnersLawful s) : OwnersLawful s.armingEval := by
  unfold State.armingEval
  dsimp only
  split
  · exact h
  · exact testHoldback_lawful (examineStorage_lawful ((armingEvent_sameOwners _ _ _ _ _).fewer.known
      ⟨h.unowned, h.shaving⟩))

theorem activationSpread_fewer (s : State) (a : Activation) : FewerOwners s (s.activationSpread a).1 := by
  unfold State.activationSpread
  split
  · exact (reserveSpread_of_fewer s _).trans (modAct_sameOwners _ _).fewer
  · exact .refl s

/-- An activation keeps the law: storage is INHIBITED before the reserve takes or spreads (R145). -/
theorem activate_lawful {s : State} (h : OwnersLawful s) (t : Trigger) (id : Option Nat) (q : Nat) (w : WinIx) :
    OwnersLawful (s.activate t id q w) := by
  have filled : OwnersKnown (s.fillActivation t id q w) := ⟨h.unowned, h.shaving⟩
  have k : OwnersLawful ((((s.fillActivation t id q w).examineStorage).each (s.stallsToTake.map (·.1))
      State.reserveTake).activationSpread (s.newActivation t id q w)).1 :=
    (activationSpread_fewer _ _).lawful ((SameOwners.each _ reserveTake_sameOwners (.refl _) _).lawful
      (examineStorage_lawful filled))
  unfold State.activate
  dsimp only
  split
  · exact (raise_sameOwners _ _ _ _).lawful ((raise_sameOwners _ _ _ _).lawful k)
  · exact (raise_sameOwners _ _ _ _).lawful k

theorem retarget_fewer (s : State) (q : Nat) : FewerOwners s (s.retarget q) := by
  unfold State.retarget
  split
  · exact ((modAct_sameOwners s _).fewer.trans (raise_sameOwners _ _ _ _).fewer).trans (reserveSpread_fewer _)
  · exact .refl s

theorem reserveProtected_fewer (s : State) (i : StallIx) : FewerOwners s (s.reserveProtected i) := by
  unfold State.reserveProtected
  split
  · dsimp only
    split
    · split
      · exact (((setHeld_sameOwners s _).trans (modAct_sameOwners _ _)).trans (reserveReturn_sameOwners _ _)).fewer.trans
          (reserveSpread_fewer _)
      · exact .refl s
    · split
      · exact (((setHeld_sameOwners s _).trans (modAct_sameOwners _ _)).trans (reserveTake_sameOwners _ _)).fewer.trans
          (reserveSpread_fewer _)
      · exact .refl s
  · exact .refl s

theorem reserveSessionBegins_sameOwners (s : State) (i : StallIx) : SameOwners s (s.reserveSessionBegins i) := by
  unfold State.reserveSessionBegins
  split
  · exact (setHeld_sameOwners s _).trans (reserveTake_sameOwners _ _)
  · exact .refl s

theorem reserveSessionEnds_sameOwners (s : State) (i : StallIx) : SameOwners s (s.reserveSessionEnds i) := by
  unfold State.reserveSessionEnds
  split
  · exact setHeld_sameOwners s _
  · exact .refl s

theorem progress_sameOwners (s : State) (n : Nat) : SameOwners s (s.progress n) := by
  unfold State.progress
  split
  · exact (modAct_sameOwners s _).trans (raise_sameOwners _ _ _ _)
  · exact .refl s

/-- The end of an activation, from the state in which the discharges have ended and the ramp ceiling stands. -/
theorem recover_lawful {s : State} (h : OwnersKnown s) (c : ActEnd) :
    OwnersLawful ((s.modAct fun a => { a with ended := some c }).setReserve .recovery).examineStorage :=
  examineStorage_lawful ⟨h.unowned, h.shaving⟩

theorem setRamp_known {s : State} (h : OwnersKnown s) (n : Nat) :
    OwnersKnown { s with alloc := { s.alloc with ramp := n } } := ⟨h.unowned, h.shaving⟩

/-- The end of an activation keeps the law: storage stays INHIBITED in RECOVERY (R152). -/
theorem endActivation_lawful {s : State} (h : OwnersLawful s) (c : ActEnd) : OwnersLawful (s.endActivation c) := by
  unfold State.endActivation
  extract_lets _ s1 s2 _ s3 s4
  have a : SameOwners s s1 := (SameOwners.each _ reserveReturn_sameOwners (.refl s) _).trans (setHeld_sameOwners _ _)
  have b : FewerOwners s s2 := a.fewer.trans (endOwned_fewer s1 .reserve).1
  have k : OwnersKnown s2 := b.known h.known
  clear_value s2
  have e : OwnersKnown s3 := setRamp_known k _
  clear_value s3
  have d : OwnersLawful s4 := recover_lawful e c
  clear_value s4
  split
  · exact (raise_sameOwners _ _ _ _).lawful d
  · exact d

theorem refuseDispatch_lawful {s : State} (h : OwnersLawful s) (n : Nat) : OwnersLawful (s.refuseDispatch n) :=
  (raise_sameOwners _ _ _ _).lawful h

theorem dispatchActivate_lawful {s : State} (h : OwnersLawful s) (a b : Nat) :
    OwnersLawful (s.dispatchActivate a b) := by
  unfold State.dispatchActivate
  split
  · exact refuseDispatch_lawful h _
  · split
    · exact refuseDispatch_lawful h _
    · split
      · exact activate_lawful h _ _ _ _
      · exact refuseDispatch_lawful h _
    · split
      · exact activate_lawful h _ _ _ _
      · exact refuseDispatch_lawful h _
    · split
      · dsimp only
        split
        · exact (retarget_fewer _ _).lawful h
        · exact (retarget_fewer _ _).lawful ((modAct_sameOwners _ _).lawful h)
      · exact h
    · split
      · exact activate_lawful h _ _ _ _
      · exact refuseDispatch_lawful h _

theorem dispatchRelease_lawful {s : State} (h : OwnersLawful s) (n : Nat) : OwnersLawful (s.dispatchRelease n) := by
  unfold State.dispatchRelease
  split
  · split
    · exact endActivation_lawful h _
    · exact refuseDispatch_lawful h _
  · exact refuseDispatch_lawful h _
  · exact refuseDispatch_lawful h _

theorem tripIn_lawful {s : State} (h : OwnersLawful s) (w : Option WinIx) : OwnersLawful (s.tripIn w) := by
  unfold State.tripIn
  split
  · split
    · exact activate_lawful h _ _ _ _
    · exact h
  · exact h

theorem frequencyTrip_lawful {s : State} (h : OwnersLawful s) : OwnersLawful s.frequencyTrip := by
  unfold State.frequencyTrip
  split
  · exact tripIn_lawful h _
  · exact tripIn_lawful h _
  · exact (modAct_sameOwners _ _).lawful h
  · exact tripIn_lawful h _
  · exact h

theorem frequencyRestore_lawful {s : State} (h : OwnersLawful s) : OwnersLawful s.frequencyRestore := by
  unfold State.frequencyRestore
  split
  · split
    · exact endActivation_lawful h _
    · exact h
  · exact h

theorem reserveTime_lawful {s : State} (h : OwnersLawful s) : OwnersLawful s.reserveTime := by
  unfold State.reserveTime
  split
  · exact armingEval_lawful h
  · exact armingEval_lawful h
  · exact armingEval_lawful h
  · split
    · exact h
    · exact endActivation_lawful h _
  · exact h

/-! ## The Readiness Tracker (05) -/

theorem evalEvent_sameOwners (s : State) (n : Nat) (a b : Departure) : SameOwners s (s.evalEvent n a b) := by
  unfold State.evalEvent
  split
  · exact raise_sameOwners _ _ _ _
  · split
    · exact raise_sameOwners _ _ _ _
    · exact .refl s

theorem evalDep_sameOwners (s : State) (n : Nat) : SameOwners s (s.evalDep n) := by
  unfold State.evalDep
  split
  · split
    · exact (setDeps_sameOwners s _).trans (evalEvent_sameOwners _ _ _ _)
    · exact .refl s
  · exact .refl s

theorem evalAll_sameOwners (s : State) : SameOwners s s.evalAll := .each _ evalDep_sameOwners (.refl s) _

theorem evalBus_sameOwners (s : State) (b : BusIx) : SameOwners s (s.evalBus b) :=
  .each _ evalDep_sameOwners (.refl s) _

theorem endDep_sameOwners (s : State) (n : Nat) (d : Departure) (r : Readiness) : SameOwners s (s.endDep n d r) :=
  setDeps_sameOwners s _

theorem unplugOutcome_sameOwners (s : State) (b : BusIx) (i : StallIx) : SameOwners s (s.unplugOutcome b i) := by
  unfold State.unplugOutcome
  split
  · exact .refl s
  · split
    · exact .refl s
    · dsimp only
      refine SameOwners.trans ?_ (evalBus_sameOwners _ _)
      split
      · split
        · exact (endDep_sameOwners s _ _ _).trans (raise_sameOwners _ _ _ _)
        · exact (endDep_sameOwners s _ _ _).trans (raise_sameOwners _ _ _ _)
      · exact .refl s

theorem evalAway_sameOwners (s : State) (b : BusIx) : SameOwners s (s.evalAway b) := by
  obtain ⟨a, c, d, e⟩ := evalBus_sameOwners (s.modBus b fun x => { x with stall := none }) b
  exact ⟨a, c, d, e⟩

theorem assocEnded_sameOwners (s : State) (b : BusIx) (i : StallIx) (c : EndCause) :
    SameOwners s (s.assocEnded b i c) := by
  unfold State.assocEnded
  split
  · exact unplugOutcome_sameOwners s _ _
  · exact evalAway_sameOwners s _
  · exact evalAway_sameOwners s _
  · exact evalAway_sameOwners s _
  · exact evalAway_sameOwners s _
  · exact .refl s

theorem reachDep_sameOwners (s : State) (n : Nat) : SameOwners s (s.reachDep n) := by
  unfold State.reachDep
  split
  · exact .refl s
  · split
    · split
      · exact endDep_sameOwners s _ _ _
      · split
        · split
          · exact (endDep_sameOwners s _ _ _).trans (raise_sameOwners _ _ _ _)
          · exact (endDep_sameOwners s _ _ _).trans (raise_sameOwners _ _ _ _)
        · exact (endDep_sameOwners s _ _ _).trans (raise_sameOwners _ _ _ _)
    · exact .refl s

theorem reachWhere_sameOwners (s : State) (p : Nat → Bool) : SameOwners s (s.reachWhere p) :=
  .each _ reachDep_sameOwners (.refl s) _

theorem forwardMove_sameOwners (s : State) (a b : Nat) : SameOwners s (s.forwardMove a b) := by
  unfold State.forwardMove
  dsimp only
  split
  · exact ((reachWhere_sameOwners s _).trans (setDeps_sameOwners _ _)).trans (reachWhere_sameOwners _ _)
  · exact reachWhere_sameOwners s _

theorem firstSetting_sameOwners (s : State) (n : Nat) : SameOwners s (s.firstSetting n) := by
  unfold State.firstSetting
  exact reachWhere_sameOwners s _

theorem riskDep_sameOwners (s : State) (n : Nat) : SameOwners s (s.riskDep n) := by
  unfold State.riskDep
  split
  · exact .refl s
  · dsimp only
    split
    · exact (setDeps_sameOwners s _).trans (raise_sameOwners _ _ _ _)
    · exact (setDeps_sameOwners s _).trans (raise_sameOwners _ _ _ _)
    · exact setDeps_sameOwners s _

theorem riskAll_sameOwners (s : State) : SameOwners s s.riskAll := .each _ riskDep_sameOwners (.refl s) _

theorem recomputeProt_sameOwners (s : State) : SameOwners s s.recomputeProt := by
  refine ⟨fun i => ?_, fun i => ?_, rfl, rfl⟩ <;> simp [State.recomputeProt, State.stall]

/-! ## Hand-offs (R38, R83) -/

theorem trackerDone_lawful {s : State} (h : OwnersLawful s) (f : State → State)
    (hf : ∀ s, OwnersLawful s → OwnersLawful (f s)) : OwnersLawful (s.trackerDone f) :=
  (FewerOwners.each _ reserveProtected_fewer (.refl _) _).lawful (hf _ ((recomputeProt_sameOwners s).lawful h))

/-- One pass of hand-offs keeps the law. -/
theorem handOff_lawful {s : State} (h : OwnersLawful s) (x : Handed) : OwnersLawful (s.handOff x) := by
  have tracked : SameOwners s (s.trackerHears x) :=
    .each _ evalBus_sameOwners (.each _ (fun s _ => assocEnded_sameOwners s _ _ _) (.refl s) _) _
  have lent : ∀ t, OwnersLawful t → OwnersLawful (t.coordinatorHears x) := fun t k => by
    refine .each _ (fun _ b m => reeval_lawful m b) (.each _ (fun _ _ m => dropDischarge_lawful m _) ?_ _) _
    split
    · exact dropDischarge_lawful k _
    · exact k
  have heard : ∀ (t : State) c, FewerOwners t (t.reserveHears x c) := fun t c => by
    have e := FewerOwners.each State.reserveProtected reserveProtected_fewer (.refl t) c
    have k : FewerOwners t (if x.unplugged then (t.each c State.reserveProtected).reserveSessionEnds x.stall
        else t.each c State.reserveProtected) := by
      split
      · exact e.trans (reserveSessionEnds_sameOwners _ _).fewer
      · exact e
    unfold State.reserveHears
    dsimp only
    split
    · exact k.trans (reserveSessionBegins_sameOwners _ _).fewer
    · exact k
  have path : ∀ t : State, SameOwners t (t.pathHears x) := fun t => by
    have k : SameOwners t (if x.unplugged then t.sessionEnd x.stall else t) := by
      split
      · exact sessionEnd_sameOwners t _
      · exact .refl t
    unfold State.pathHears
    dsimp only
    split
    · exact k.trans (sessionStart_sameOwners _ _)
    · exact k
  exact (path _).lawful ((heard _ _).lawful (lent _ ((recomputeProt_sameOwners _).lawful (tracked.lawful h))))

/-! ## The Session Table and service status (03, R5) -/

theorem endAssoc_sameOwners (s : State) (b : BusIx) (i : StallIx) : SameOwners s (s.endAssoc b i) := by
  unfold State.endAssoc
  refine (modBus_sameOwners s b _).trans (modStall_sameOwners _ _ _ ?_)
  exact fun _ => ⟨rfl, rfl⟩

theorem takeBus_sameOwners (s : State) (i : StallIx) (b : BusIx) (o : Option StallIx) :
    SameOwners s (s.takeBus i b o) := by
  unfold State.takeBus
  dsimp only
  have h := (modBus_sameOwners s b fun x => { x with stall := some i }).trans (modStall_sameOwners _ i
    (fun x => { x with occ := .session, bus := some b, partner := none }) fun _ => ⟨rfl, rfl⟩)
  split
  · exact h.trans (raise_sameOwners _ _ _ _)
  · exact h.trans (raise_sameOwners _ _ _ _)

theorem drop_sameOwners (r : Settled) (i : StallIx) (c : EndCause) : SameOwners r.state (r.drop i c).state := by
  unfold Settled.drop
  split
  · exact endAssoc_sameOwners _ _ _
  · exact .refl _

theorem become_sameOwners (r : Settled) (i : StallIx) (o : Occupancy) : SameOwners r.state (r.become i o).state := by
  unfold Settled.become
  dsimp only
  refine modStall_sameOwners _ _ _ ?_
  exact fun _ => ⟨rfl, rfl⟩

theorem take_sameOwners (r : Settled) (i : StallIx) (b : BusIx) : SameOwners r.state (r.take i b).state := by
  unfold Settled.take
  split
  · exact takeBus_sameOwners r.state i b none
  · next t _ =>
    dsimp only
    refine .trans ?_ (takeBus_sameOwners _ _ _ _)
    refine .trans (endAssoc_sameOwners r.state b t) (modStall_sameOwners _ _ _ ?_)
    exact fun _ => ⟨rfl, rfl⟩

theorem conflict_sameOwners (r : Settled) (i t : StallIx) : SameOwners r.state (r.conflict i t).state := by
  unfold Settled.conflict
  dsimp only
  have h := modStall_sameOwners r.state i (fun x => { x with occ := .conflict, partner := some t }) fun _ => ⟨rfl, rfl⟩
  split
  · exact h
  · exact h.trans (raise_sameOwners _ _ _ _)

theorem claim_sameOwners (r : Settled) (i : StallIx) (b : BusIx) : SameOwners r.state (r.claim i b).state := by
  unfold Settled.claim
  split
  · exact take_sameOwners _ _ _
  · split
    · exact conflict_sameOwners _ _ _
    · exact take_sameOwners _ _ _

theorem plugged_sameOwners (r : Settled) (i : StallIx) (a b : Option Nat) :
    SameOwners r.state (r.plugged i a b).state := by
  unfold Settled.plugged
  dsimp only
  split
  · split
    · exact .refl _
    · exact become_sameOwners _ _ _
  · split
    · have h := (drop_sameOwners r i .identity).trans (become_sameOwners _ i .guest)
      split
      · exact h
      · exact h.trans (raise_sameOwners _ _ _ _)
    · split
      · exact .refl _
      · exact (drop_sameOwners r i .identity).trans (claim_sameOwners _ _ _)

theorem clearPlug_sameOwners (s : State) (i : StallIx) : SameOwners s (s.clearPlug i) := by
  unfold State.clearPlug
  refine modStall_sameOwners _ _ _ ?_
  exact fun _ => ⟨rfl, rfl⟩

theorem unplugged_sameOwners (r : Settled) (i : StallIx) : SameOwners r.state (r.unplugged i).state := by
  unfold Settled.unplugged
  dsimp only
  split
  · exact .refl _
  · exact ((drop_sameOwners r i .unplug).trans (clearPlug_sameOwners _ _)).trans (raise_sameOwners _ _ _ _)
  · exact (clearPlug_sameOwners _ _).trans (raise_sameOwners _ _ _ _)
  · exact (clearPlug_sameOwners _ _).trans (raise_sameOwners _ _ _ _)
  · exact (clearPlug_sameOwners _ _).trans (raise_sameOwners _ _ _ _)
  · exact become_sameOwners _ _ _

theorem faultCode_sameOwners (r : Settled) (i : StallIx) (a b : Nat) :
    SameOwners r.state (r.faultCode i a b).state := by
  unfold Settled.faultCode
  dsimp only
  split
  · split
    · exact .refl _
    · exact raise_sameOwners _ _ _ _
  · refine .trans ?_ (raise_sameOwners _ _ _ _)
    refine .trans (drop_sameOwners r i .fault) (modStall_sameOwners _ _ _ ?_)
    exact fun _ => ⟨rfl, rfl⟩

theorem settle_sameOwners (s : State) (i : StallIx) (p : PortRecord) (x : Stall) :
    SameOwners s (s.settle i p x).state := by
  unfold State.settle
  dsimp only
  split
  · exact faultCode_sameOwners ⟨s, [], none⟩ i _ _
  · have h : SameOwners s (if x.occ = .faulted then (⟨s, [], none⟩ : Settled).faultCleared i x.fault
        else ⟨s, [], none⟩).state := by
      split
      · exact .trans (raise_sameOwners s .stallFaultCleared (.stall i) x.fault)
          (become_sameOwners ⟨s.raise .stallFaultCleared (.stall i) x.fault, [], none⟩ i .vacant)
      · exact .refl s
    split
    · exact h.trans (plugged_sameOwners _ _ _ _)
    · exact h.trans (unplugged_sameOwners _ _)

theorem setBaseline_sameOwners (s : State) (i : StallIx) (a b : Int) : SameOwners s (s.setBaseline i a b) := by
  unfold State.setBaseline
  refine modStall_sameOwners _ _ _ ?_
  exact fun _ => ⟨rfl, rfl⟩

theorem estimateStep_sameOwners (s : State) (i : StallIx) (p : PortRecord) (f : Bool) :
    SameOwners s (s.estimateStep i p f) := by
  unfold State.estimateStep
  split
  · unfold State.estimate
    split
    · exact (modBus_sameOwners _ _ _).trans (setBaseline_sameOwners _ _ _ _)
    · split
      · dsimp only
        split
        · exact (modBus_sameOwners _ _ _).trans (setBaseline_sameOwners _ _ _ _)
        · exact setBaseline_sameOwners _ _ _ _
      · unfold State.countEstimate
        dsimp only
        split
        · exact ((modBus_sameOwners _ _ _).trans (setBaseline_sameOwners _ _ _ _)).trans (raise_sameOwners _ _ _ _)
        · split
          · exact setBaseline_sameOwners _ _ _ _
          · exact (modBus_sameOwners _ _ _).trans (setBaseline_sameOwners _ _ _ _)
  · unfold State.keepBaseline
    split
    · exact setBaseline_sameOwners _ _ _ _
    · exact .refl _

theorem storeRecord_sameOwners (s : State) (i : StallIx) (p : PortRecord) : SameOwners s (s.storeRecord i p) := by
  unfold State.storeRecord
  dsimp only
  have h := modStall_sameOwners s i (fun x => { x with fresh := .fresh, age := 0 }) fun _ => ⟨rfl, rfl⟩
  refine SameOwners.trans ?_ (by refine modStall_sameOwners _ _ _ ?_; exact fun _ => ⟨rfl, rfl⟩)
  split
  · exact h.trans (raise_sameOwners _ _ _ _)
  · exact h

/-- A port record keeps the ownership law (R38). -/
theorem portRecord_lawful {s : State} (h : OwnersLawful s) (i : StallIx) (p : PortRecord) :
    OwnersLawful (s.portRecord i p) := by
  unfold State.portRecord
  dsimp only
  split
  · exact handOff_lawful (((storeRecord_sameOwners s i p).trans (settle_sameOwners _ _ _ _)).trans
      (estimateStep_sameOwners _ _ _ _) |>.lawful h) _
  · exact h

/-- An age threshold keeps the ownership law (R40). -/
theorem ageReached_lawful {s : State} (h : OwnersLawful s) (i : StallIx) (n : Nat) (f : Freshness) (k : EventKind) :
    OwnersLawful (s.ageReached i n f k) := by
  unfold State.ageReached
  refine .each _ (fun _ b m => reeval_lawful m b) ((raise_sameOwners _ _ _ _).lawful
    ((modStall_sameOwners _ _ _ ?_).lawful h)) _
  exact fun _ => ⟨rfl, rfl⟩

/-- The service status re-derived keeps the ownership law (R4, R5). -/
theorem reService_lawful {s : State} (h : OwnersLawful s) : OwnersLawful s.reService := by
  unfold State.reService
  refine .each _ (fun t i k => ?_) ?_ _
  · split
    · unfold State.leaveService
      dsimp only
      have m := ((drop_sameOwners ⟨t, [], none⟩ i .outOfService).trans (clearPlug_sameOwners _ i)).trans
        (modStall_sameOwners _ i (fun x => { x with fresh := .none, age := 0 }) fun _ => ⟨rfl, rfl⟩)
      split
      · exact handOff_lawful (m.lawful k) _
      · exact m.lawful k
    · unfold State.enterService
      refine (modStall_sameOwners _ _ _ ?_).lawful k
      exact fun _ => ⟨rfl, rfl⟩
  · refine SameOwners.lawful (s := s) ⟨fun i => ?_, fun i => ?_, rfl, rfl⟩ h <;> simp [State.stall]

/-! ## The FLEET swap (R52) -/

/-- A FLEET swap keeps the ownership law. -/
theorem fleetSwapped_lawful {s : State} (h : OwnersLawful s) (old : Vector BusEntry 64) :
    OwnersLawful (s.fleetSwapped old) := by
  have lose : ∀ (t : State) b, SameOwners t (t.loseBus b) := fun t b => by
    unfold State.loseBus
    split
    · next i _ =>
      refine .trans ?_ (raise_sameOwners _ _ _ _)
      refine .trans (endAssoc_sameOwners t b i) (modStall_sameOwners _ _ _ ?_)
      exact fun _ => ⟨rfl, rfl⟩
    · exact .refl t
  have match_ : ∀ t : State, SameOwners t (t.rematch old) := fun t => by
    have k : ∀ i, (t.matchedStall old i).owner = (t.stall i).owner ∧
        (t.matchedStall old i).discharge = (t.stall i).discharge := fun i => by
      unfold State.matchedStall
      dsimp only
      split
      · exact ⟨rfl, rfl⟩
      · split <;> exact ⟨rfl, rfl⟩
    refine ⟨fun i => ?_, fun i => ?_, rfl, rfl⟩
    · rw [← (k i).1]; simp [State.rematch, State.stall]
    · rw [← (k i).2]; simp [State.rematch, State.stall]
  have settle : ∀ t : State, SameOwners t t.cancelDeps.sortDeps.evalAll := fun t =>
    ((show SameOwners t t.cancelDeps from setDeps_sameOwners t _).trans
      (show SameOwners t.cancelDeps t.cancelDeps.sortDeps from setDeps_sameOwners _ _)).trans (evalAll_sameOwners _)
  unfold State.fleetSwapped
  dsimp only
  refine trackerDone_lawful ((settle _).lawful ((match_ _).lawful
    ((SameOwners.each _ lose (.refl s) _).lawful h))) _ fun t k => ?_
  exact testHoldback_lawful (checkLimits_lawful (reevalAll_lawful (.each _ (fun _ i m => dropDischarge_lawful m i) k _)) _)

end Sys2Proof.Machine
end

