-- ==== Sys2Proof/Tests/Slice0.lean ====
section
/-! SUPPORT. Small tests: ill-formed commands are refused by the check, worked figures of the manual, and for every
statement with hypotheses a state and operands that meet them, clause by clause, at the edge of each range. -/

-- Many kernel evaluations stand here: one after another they need one thread's memory, at once they need too much.
set_option Elab.async false

namespace Sys2Proof.Tests

open Sys2Proof Sys2Proof.Machine

/-! ## Ill-formed commands -/

theorem test_ill_tableWrite : (Instr.tableWrite 1 0 0 0 (List.replicate 238 0)).wellFormed = false := by decide +kernel
theorem test_ok_tableWrite : (Instr.tableWrite 1 0 0 0 (List.replicate 237 0)).wellFormed = true := by decide +kernel
theorem test_ill_unknownRequest_kind : (Instr.unknownRequest 1 0x4E []).wellFormed = false := by decide +kernel
theorem test_ill_unknownRequest_body : (Instr.unknownRequest 1 0x4F (List.replicate 241 0)).wellFormed = false :=
  by decide +kernel
theorem test_ill_requestFrame : (Instr.requestFrame 1 0x40 (List.replicate 241 0)).wellFormed = false :=
  by decide +kernel
theorem test_ill_passthrough_dest : (Instr.passthroughFrame 25 0x30 0 []).wellFormed = false := by decide +kernel
theorem test_ill_passthrough_body : (Instr.passthroughFrame 24 0x30 0 (List.replicate 241 0)).wellFormed = false :=
  by decide +kernel
theorem test_ill_telemetry : (Instr.telemetry .a 0 1 0 (List.replicate 241 0)).wellFormed = false := by decide +kernel
theorem test_ill_censusReport : (Instr.censusReport .a 0 1 0 (List.replicate 241 0)).wellFormed = false :=
  by decide +kernel
theorem test_ill_checkReply : (Instr.checkReply .b 0 1 0 (List.replicate 241 0)).wellFormed = false := by decide +kernel
theorem test_ill_uplinkFrame_kind : (Instr.uplinkFrame .a 0xF0 1 0x11 0 []).wellFormed = false := by decide +kernel
theorem test_ill_uplinkFrame_body : (Instr.uplinkFrame .a 0xF0 1 0x30 0 (List.replicate 241 0)).wellFormed = false :=
  by decide +kernel
theorem test_ill_sample : (Instr.sample 0 0 (List.replicate 241 0)).wellFormed = false := by decide +kernel
theorem test_ill_dispatchActivate : (Instr.dispatchActivate 0 0 (List.replicate 240 0)).wellFormed = false :=
  by decide +kernel
theorem test_ill_dispatchRelease : (Instr.dispatchRelease 0 0 (List.replicate 240 0)).wellFormed = false :=
  by decide +kernel
theorem test_ill_testFrameLooped : (Instr.testFrameLooped 0 (List.replicate 241 0)).wellFormed = false :=
  by decide +kernel
theorem test_ill_frameDiscarded : (Instr.frameDiscarded .a).wellFormed = false := by decide +kernel

/-! ## Figures of the manual -/

/-- The check octets "123456789". -/
def digits : List Byte := [0x31, 0x32, 0x33, 0x34, 0x35, 0x36, 0x37, 0x38, 0x39]

/-- R182: 0x29B1. -/
theorem test_crc16 : crc16 digits = 0x29B1#16 := by decide +kernel

/-- R183: 0xCBF43926. -/
theorem test_crc32 : crc32 digits = 0xCBF43926#32 := by decide +kernel

/-- Chapter 6, fit at its limits, line by line. -/
theorem test_fit : fit 150 150 [⟨true, 120⟩, ⟨true, 75⟩, ⟨false, 90⟩] = [120, 30, 0] ∧
    fit 200 150 [⟨true, 180⟩, ⟨false, 50⟩] = [180, 0] ∧
    fit 200 150 [⟨true, 100⟩, ⟨false, 80⟩, ⟨false, 40⟩] = [100, 34, 16] ∧
    fit 20 20 [⟨false, 10⟩, ⟨false, 10⟩, ⟨false, 10⟩] = [7, 7, 6] ∧
    fit 50 50 [⟨false, 0⟩, ⟨false, 40⟩, ⟨false, 25⟩] = [0, 31, 19] ∧
    fit 0 0 [⟨false, 40⟩, ⟨false, 25⟩] = [0, 0] ∧ fit 100 100 [⟨true, 0⟩, ⟨false, 0⟩] = [0, 0] := by decide

/-- Chapter 2, reserve postings: the queue after each posting of the worked sequence. -/
theorem test_postings :
    postEntry [⟨7, false, true⟩, ⟨12, false, false⟩, ⟨3, false, false⟩] 7 false =
      [⟨7, false, false⟩, ⟨12, false, false⟩, ⟨3, false, false⟩] ∧
    postEntry (postEntry [⟨7, false, false⟩, ⟨12, false, false⟩, ⟨3, false, false⟩] 3 true) 20 true =
      [⟨3, true, false⟩, ⟨20, true, false⟩, ⟨7, false, false⟩, ⟨12, false, false⟩] ∧
    postEntry [⟨3, true, true⟩, ⟨20, true, false⟩, ⟨7, false, false⟩, ⟨12, false, false⟩] 12 true =
      [⟨3, true, true⟩, ⟨20, true, false⟩, ⟨12, true, false⟩, ⟨7, false, false⟩] := by decide

/-- R138: a window from 17:00 to 19:00 and one from 22:00 to 01:00, at the edges of each. -/
theorem test_windows :
    (let w : WindowEntry := ⟨true, 1020, 1140, 0, 0, false⟩
     [1019, 1020, 1139, 1140].map w.contains = [false, true, true, false]) ∧
    (let w : WindowEntry := ⟨true, 1320, 60, 0, 0, false⟩
     [1319, 1320, 1439, 0, 59, 60].map w.contains = [false, true, true, true, true, false]) ∧
    (⟨true, 600, 600, 0, 0, false⟩ : WindowEntry).contains 600 = false := by decide

/-- The table gives its rows no bits: no word spells a command. -/
theorem test_decode : decodeTableWord 8 0x40 = none := rfl

/-! ## A small depot -/

/-- Two dispensers on one panel, bus 2115 of chapter 8 in SESSION at stall 0 with its departure 400 minutes off. -/
def depot : State := { State.reset with
  plant := { State.reset.plant with
    live := { PlantSet.empty with
      site := ⟨1000, 0x51A7, 0x2C3E⟩
      panels := PlantSet.empty.panels.set 0 ⟨true, 500⟩
      dispensers := (PlantSet.empty.dispensers.set 0 ⟨true, some 0, 2, 300, 150, 150, true⟩).set 1
        ⟨true, some 0, 2, 300, 150, 150, true⟩ }
    liveEmpty := false }
  fleet := { State.reset.fleet with
    live := (Vector.replicate 64 BusEntry.zero).set 0 ⟨2115, 3000, 100, 150, 100, 1, 1⟩
    liveEmpty := false }
  configured := true
  lineA := { StallLineState.afterReset false with health := .good }
  lineB := { StallLineState.afterReset false with health := .good }
  presence := (State.reset.presence.set 0 ⟨.present, 0, some ⟨2, 300, 150, 150, true⟩⟩).set 1
    ⟨.present, 0, some ⟨2, 300, 150, 150, true⟩⟩
  stalls := State.reset.stalls.set 0 { Stall.afterReset with
    inService := true, occ := .session, fresh := .fresh, bus := some 0, plugged := true, baseline := some 1000 }
  buses := State.reset.buses.set 0 ⟨some 2600, false, some 0, 0⟩
  clock := some 64800
  deps := [⟨2115, 40, 1700, 0, 0, true, .scheduled, false, false⟩]
  events := { State.reset.events with queue := [] } }

/-- The depot with stall 0 changed. -/
def depot0 (f : Stall → Stall) : State := depot.modStall 0 f

/-- Chapter 8, one bus through the afternoon. -/
theorem test_lendable : depot.lendableNow 0 = 2300 ∧
    { depot with clock := some 79800 }.lendableNow 0 = 600 ∧
    { depot with clock := some 79800, buses := depot.buses.set 0 ⟨some 1900, false, some 0, 0⟩ }.lendableNow 0 = 0 ∧
    (depot0 fun x => { x with prot := true }).lendableNow 0 = 0 ∧
    (depot0 fun x => { x with lend := false }).lendableNow 0 = 0 ∧
    (depot0 fun x => { x with fresh := .stale }).lendableNow 0 = 0 ∧
    { depot with buses := depot.buses.set 0 ⟨none, false, some 0, 0⟩ }.lendableNow 0 = 0 := by decide

/-- What a command leaves, judged. -/
def leaves (c : Instr) (s : State) (p : State → Bool) : Bool :=
  match exec c s with
  | .next t => p t
  | .fault _ => false
  | .refused _ => false

/-- R38, R51: 2.5 kWh counted down at stall 0 lower the estimate by 25 hWh. -/
theorem test_telemetry : leaves (.telemetry .a 0 1 0
      ([1, 0, 0, 0xFF, 0xFF, 0, 0, 0xFF, 0xFF, 0xFA, 0x24, 0] ++ List.replicate 12 0))
    { depot with window := some (.poll 0 none) } (fun t => (t.bus 0).energy == some 2575 && (t.stall 0).fresh == .fresh)
    = true := by decide +kernel

/-- R120, R115: a cap of 40 kW under a grant of 60 kW is served DONE, the stall charges at 40 kW and is posted. -/
theorem test_setpoint : leaves (.setpoint 9 0 40 0)
    { depot0 (fun x => { x with grant := 60, sp := ⟨60, 0, 0⟩ }) with superv := ⟨true, false, 0, 30⟩ }
    (fun t => (t.stall 0).sp == ⟨40, 0, 0⟩ && t.setQ == [⟨0, false, false⟩] && t.office.slot ==
      some ⟨0xF0, 0, 0x4B, 9, [0, 0, 40, 0, 40, 0, 0]⟩) = true := by decide +kernel

/-- R89, R91, R102: a round against the fallback load of 200 kW; the timer restarts with its 2 s. -/
theorem test_round : leaves .allocationPeriodExpiry depot (fun t => t.alloc.roundCount == 1 &&
    t.alloc.record.hard == 800 && t.alloc.remaining == 2) = true := by decide +kernel

/-- R164: STATUS READ of record 10 is refused RANGE (6). -/
theorem test_statusRead : leaves (.statusRead 3 10 0) depot (fun t =>
    t.office.slot == some ⟨0xF0, 0, 0x41, 3, [6]⟩) = true := by decide +kernel

/-! ## Witnesses: the machine as a whole -/

theorem free_reset : PortFree State.reset := ⟨by decide, rfl, rfl, rfl⟩

theorem free_depot : PortFree depot := ⟨by decide, rfl, rfl, rfl⟩

/-- Bus 2115 and stall 0 name each other, and no other bus or stall names one. -/
theorem associated_depot : Associated depot :=
  ⟨by decide +kernel, by decide +kernel, by decide +kernel⟩

theorem distinct_depot : FleetDistinct depot.fleet.live := by unfold FleetDistinct; decide +kernel

theorem safe_depot : Safe depot :=
  ⟨fun i => ⟨.inl (by revert i; decide +kernel), by revert i; decide +kernel⟩, ⟨by decide, by decide⟩,
    ⟨by decide, by decide, by decide, by decide⟩, associated_depot,
    ⟨by decide +kernel, by decide +kernel, by decide +kernel⟩, distinct_depot, nofun⟩

theorem witness_StepRunsFrontCommand :
    ({ depot with pending := [.minuteTick, .softReset] } : State).pending = .minuteTick :: [.softReset] := rfl

theorem witness_IdleStep : depot.pending = [] ∧ (depot0 fun x => { x with age := 4 }).pending = [] ∧
    ((depot0 fun x => { x with age := 4 }).stall 0).fresh = .fresh ∧
    ((depot0 fun x => { x with fresh := .stale, age := 29 }).stall 0).fresh = .stale ∧
    ((depot0 fun x => { x with fresh := .unreachable, age := 65535 }).stall 0).fresh = .unreachable ∧
    (depot.stall 47).fresh = .none ∧ depot.reserve.state ≠ .active ∧
    (let s := { depot with reserve := ⟨.active, none, none, []⟩ }; s.pending = [] ∧ s.reserve.state = .active) := by
  decide +kernel

theorem witness_StepKeepsSafe : Safe depot ∧ ∃ t, step depot = .next t := ⟨safe_depot, _, rfl⟩

theorem witness_LiveSets : Instr.minuteTick ≠ .powerOnReset ∧ Instr.minuteTick ≠ .allocationPeriodExpiry ∧
    ∃ t, exec .minuteTick depot = .next t := ⟨by decide, by decide, _, rfl⟩

theorem witness_LockKeepsLivePlant : LockHolds { depot with lock := true } ∧
    ({ depot with lock := true } : State).lock = true ∧
    ∃ t, exec .allocationPeriodExpiry { depot with lock := true } = .next t := ⟨fun _ => rfl, rfl, _, rfl⟩

/-- A response, as the slot holds it. -/
def aFrame : Frame := ⟨0xF0, 0, 0x40, 1, [0]⟩

/-- A routine record and an urgent one. -/
def aRoutine : QueuedRec := ⟨⟨.plug, .routine, .stall 0, 0, none⟩, false⟩
def anUrgent : QueuedRec := ⟨⟨.start, .urgent, .part, 0, none⟩, false⟩

/-- A command whose effect is the state itself: what it leaves is what the free transmitters started. -/
theorem test_finish (s : State) : exec (.frameDiscarded .a) s = .next s.finish := rfl

/-- The records of a class that wait for an event frame. -/
def waits (c : EventClass) (s : State) : List EventRec :=
  (s.events.queue.filter fun q => q.record.cls == c && !q.inFlight).map (·.record)

/-- The depot CONFIGURED with no dispenser PRESENT. -/
def bare : State := { State.reset with configured := true }

theorem witness_Transmitters :
    (let u := { depot with office := { depot.office with tx := some (.response aFrame) } };
      u.office.tx = some (.response aFrame)) ∧
    (let u := { depot with office := { depot.office with slot := some aFrame } };
      u.office.tx = none ∧ u.office.slot = some aFrame) ∧
    (let u := { depot with office := { depot.office with forward := [aFrame] } };
      u.office.tx = none ∧ u.office.slot = none ∧ waits .urgent u = [] ∧ u.office.forward = aFrame :: []) ∧
    (let u := { depot with events := { depot.events with queue := [anUrgent] } };
      u.office.tx = none ∧ u.office.slot = none ∧ waits .urgent u ≠ []) ∧
    (let u := { depot with events := { depot.events with queue := [aRoutine], released := true } };
      u.office.tx = none ∧ u.office.slot = none ∧ u.office.forward = [] ∧ u.events.released = true ∧
      waits .routine u ≠ []) ∧
    (depot.office.tx = none ∧ depot.office.slot = none ∧ waits .urgent depot = [] ∧ depot.office.forward = [] ∧
      depot.events.released = false) := by decide +kernel

/-- At the fourth frame between two POLLs a probe is due; after the fourth it is not, with an address PRESENT. -/
theorem witness_Transmitters_active :
    (let u := { depot with lineA := { depot.lineA with tx := some (.fill 0) } }; (u.line u.active).tx = some (.fill 0)) ∧
    (State.reset.configured = false ∧ (State.reset.line State.reset.active).tx = none) ∧
    (depot.configured = true ∧ (depot.line depot.active).tx = none ∧ (depot.line depot.active).health ≠ .test ∧
      depot.window = none ∧ depot.probeDue = none ∧ depot.nextPresent depot.pollPos = some 0) ∧
    (depot.nextPresent (some 0) = some 1 ∧ depot.nextPresent (some 1) = some 0 ∧ bare.nextPresent none = none) ∧
    (let u := { depot with between := 3, census := ⟨true, some 1, false, Vector.replicate 24 false⟩ };
      u.configured = true ∧ (u.line u.active).tx = none ∧ u.window = none ∧ u.between < 4 ∧ u.probeDue = some 1) ∧
    (let u := { depot with between := 4, window := some (.poll 0 none) };
      u.window ≠ none ∧ 0 < u.presentCount ∧ 4 ≤ u.between) ∧
    (let u := { depot with window := some (.poll 0 none), between := 3, setQ := [⟨5, false, false⟩] };
      u.configured = true ∧ (u.line u.active).tx = none ∧ (u.line u.active).health ≠ .test ∧ u.window ≠ none ∧
      u.between < 4 ∧ u.setQ = ⟨5, false, false⟩ :: []) ∧
    (let u := { bare with passQ := [aFrame] };
      u.configured = true ∧ (u.line u.active).tx = none ∧ (u.line u.active).health ≠ .test ∧ u.window = none ∧
      u.probeDue = none ∧ u.nextPresent u.pollPos = none ∧ u.setQ = [] ∧ u.passQ = aFrame :: [] ∧ bare.passQ = []) ∧
    (let u := { depot with lineB := { depot.lineB with checkDue := true } };
      (u.line u.standby).checkDue = true ∧ (u.line u.standby).tx = none ∧ (u.line u.standby).health ≠ .test ∧
      u.nextPresent (u.line u.standby).rotation = some 0) ∧
    (depot.line depot.standby).checkDue = false := by decide +kernel

/-- R27, 12.4: stall 5 is port 1 of dispenser 3; the SET carries charge, conditioning and discharge. -/
theorem test_SET_frame : (StallTx.set 5 60 8 0).frame = ⟨3, 0, 0x12, 0, [1, 60, 8, 0]⟩ := by decide

/-- R25, R35: FILL to 0xFF with the round count; a TEST frame with its tag and the fixed pattern. -/
theorem test_FILL_frame : (StallTx.fill 7).frame = ⟨0xFF, 0, 0x17, 0, [7]⟩ ∧
    (StallTx.test 3).frame = ⟨0, 0, 0x18, 3, [0xC5, 0xB7, 0x3A, 0, 0xFF, 0x55, 0xAA, 1]⟩ := by decide

/-- R180, 12.6: one UNPLUG of stall 9 with parameter −1, raised while the clock is UNSET, after a loss. -/
theorem test_EVENT_frame : (OfficeTx.event true [⟨.unplug, .routine, .stall 9, -1, none⟩]).frame =
    ⟨0xF0, 0, 0x60, 0, [1, 1, 17, 0, 0, 9, 0xFF, 0xFF, 0xFF, 0xFF, 0xFF, 0xFF]⟩ := by decide

theorem witness_SoftReset : depot.test = none := rfl

/-! ## Witnesses: the office port -/

theorem witness_RequestFrames :
    (let s := { depot with office := { depot.office with rx := ⟨.brk, [], false, true, false⟩ } };
      s.office.rx.state = .brk) ∧
    (let s := { depot with office := { depot.office with slot := some aFrame, inbound := List.replicate 3 ⟨1, .lock⟩ } };
      PortBusy s ∧ s.office.inbound.length < 4) ∧
    (let s := { depot with office := { depot.office with
        inHand := some ⟨1, .lineTest 1⟩, inbound := List.replicate 4 ⟨1, .lock⟩ } };
      PortBusy s ∧ 4 ≤ s.office.inbound.length) ∧
    (PortFree depot ∧ isRequestKind 0x3F = false ∧ isRequestKind 0x4F = false) ∧
    (PortFree depot ∧ bodyLengthOf 0x4E = some 0 ∧ ([0] : List Byte).length ≠ 0) :=
  ⟨rfl, ⟨⟨by decide, .inr rfl⟩, by decide⟩, ⟨⟨by decide, .inl rfl⟩, by decide⟩, ⟨free_depot, by decide, by decide⟩,
    free_depot, by decide, by decide⟩

theorem witness_Reads : PortFree depot ∧ ((0x00#8).toNat = 0 ∧ 9 < (0x0A#8).toNat) ∧ (0x01#8).toNat = 1 ∧
    (0x02#8).toNat = 2 ∧ (0x03#8).toNat = 3 ∧ (0x04#8).toNat = 4 ∧ (0x08#8).toNat = 8 :=
  ⟨free_depot, by decide, by decide, by decide, by decide, by decide, by decide⟩

theorem witness_Heartbeat : PortFree State.reset ∧ State.reset.configured = false ∧ PortFree depot ∧
    depot.configured = true ∧ depot.superv.supervised = false ∧ (0x51A7#16).toNat = depot.plant.live.site.keyA ∧
    depot.superv.expectB = false ∧ depot.superv.correct = 0 ∧ (0x2C3E#16).toNat ≠ depot.plant.live.site.keyA ∧
    (let s := { depot with superv := ⟨false, true, 1, 0⟩ };
      PortFree s ∧ s.superv.correct = 1 ∧ s.superv.expectB = true ∧ (0x2C3E#16).toNat = s.plant.live.site.keyB) :=
  ⟨free_reset, rfl, free_depot, rfl, rfl, by decide, rfl, rfl, by decide, ⟨by decide, rfl, rfl, rfl⟩, rfl, rfl,
    by decide⟩

/-- LOCK is answered at once, and a LINE TEST that starts is answered later. -/
theorem witness_RequestsServed : PortFree depot ∧ (depot.serve (requestOf 0x49 [])).2 = some [0] ∧
    (depot.serve (requestOf 0x4D [1])).2 = none := ⟨free_depot, by decide +kernel, by decide +kernel⟩

/-- The depot SUPERVISED. -/
def ruled : State := { depot with superv := ⟨true, false, 0, 30⟩ }

theorem free_ruled : PortFree ruled := ⟨by decide, rfl, rfl, rfl⟩

theorem witness_Supervision : ruled.superv.supervised = true ∧ PortFree ruled ∧ ruled.configured = true ∧
    ruled.superv.expectB = false ∧ (0x51A7#16).toNat = ruled.plant.live.site.keyA ∧
    (0x2C3E#16).toNat ≠ ruled.plant.live.site.keyA := ⟨rfl, free_ruled, rfl, rfl, by decide, by decide⟩

/-- A stall in SESSION with FORBID, and stalls with the permission, out of SESSION and with no bus. -/
theorem witness_LosesCap : (let v := depot0 fun x => { x with cap := some 10, lend := false };
      (v.stall 0).lend = false ∧ (v.stall 0).occ = .session ∧ (v.stall 0).bus = some 0) ∧
    (depot.stall 0).lend = true ∧ (depot.stall 1).occ ≠ .session ∧ (depot.stall 1).bus = none := by decide +kernel

theorem witness_TableRequests : (PortFree depot ∧ 4 < (0x05#8).toNat) ∧ tableShape 0 2 = some (24, 8) ∧ 23 < 24 ∧
    ∃ x, plantKind.store depot.plant.draft 2 23 [1, 5, 2, 0x01, 0x90, 250, 250, 1] = some (x, false) :=
  ⟨⟨free_depot, by decide⟩, rfl, by decide, _, rfl⟩

/-- R170, R171: a threshold of 4 kW is brought to 5, a class of 7 to URGENT, each with CLAMPED; a window's octets read as
they were written. -/
theorem test_stores :
    (policyKind.store PolicySet.defaults 1 0 [7]).map (·.2) = some true ∧
    (policyKind.store PolicySet.defaults 0 0
      [2, 0, 60, 0, 180, 3, 0x84, 20, 30, 0, 100, 1, 4, 30, 4, 10, 0, 180, 0, 200, 1]).map
        (fun r => (r.1.params.shaveThreshold, r.2)) = some (5, true) ∧
    (gridKind.store GridSet.empty 0 3 [1, 4, 0x38, 4, 0x74, 0, 100, 30, 1]).map (fun r => gridKind.entry r.1 0 3) =
      some [1, 4, 0x38, 4, 0x74, 0, 100, 30, 1] := by decide +kernel

/-- A wrong length, and the table sizes at their edges: DISPENSER has 24 entries of 8 octets. -/
theorem witness_DraftRequests : tableShape 0 3 = none ∧ tableShape 0 2 = some (24, 8) ∧ entryFits 0 2 [0] = false ∧
    entryFits 0 2 (List.replicate 8 0) = true ∧ depot.plant.pending = false ∧ 24 ≤ (24#8).toNat ∧ (23#8).toNat < 24 ∧
    1 < (2#8).toNat ∧
    (24 ≤ 24 ∧ 23 < 24) ∧ plantKind.store depot.plant.draft 2 23 [1, 5, 2, 0x01, 0x90, 250, 250, 1] ≠ none ∧
    plantKind.store depot.plant.draft 2 23 [1, 6, 2, 0x01, 0x90, 250, 250, 1] = none ∧
    ({ depot.plant with pending := true } : TableSet PlantSet).pending = true ∧
    depot.plant.live.offender = none ∧
    depot.plant.draft.offender = some (0, 0) := by decide +kernel

/-- 12.8: a WINDOW entry has 9 octets; GRID has no table 3, and an entry for one is turned away as an unknown table. -/
theorem test_entryFits : entryFits 3 0 (List.replicate 9 0) = true ∧ entryFits 3 0 (List.replicate 8 0) = false ∧
    tableShape 3 3 = none ∧ entryFits 3 3 [] = true ∧ tableShape 5 0 = none := by decide +kernel

theorem ne_succ (c : BitVec 32) : c ≠ c + 1 := by bv_omega

/-- A wrong checksum and the right one. -/
theorem witness_DraftRequests_crc : (∃ w, crc32 (plantKind.octets depot.plant.draft) ≠ w) ∧
    ∃ w, crc32 (plantKind.octets depot.plant.draft) = w := ⟨⟨_, ne_succ _⟩, _, rfl⟩

/-- A listed dispenser on no panel, behind a good one, is the first offender. -/
theorem witness_PlantConsistency : depot.plant.live.offender = none ∧ PlantSet.empty.site.keyA = 0 ∧
    ({ depot.plant.live with dispensers := depot.plant.live.dispensers.set 1 ⟨true, none, 2, 300, 150, 150, true⟩ } :
      PlantSet).offender = some (2, 1) := by decide +kernel

/-- A fleet number twice; two departures of one bus at one minute, and one of a bus the FLEET set does not hold. -/
theorem witness_Consistency :
    (let v := depot.fleet.live.set 63 ⟨2115, 3000, 100, 150, 100, 1, 1⟩;
      fleetOffender v = some (0, 63) ∧ fleetOffender depot.fleet.live = none) ∧
    (let e : DepEntry := ⟨2115, 40, 1700, 0, 0, 1⟩;
     let v := (Vector.replicate 96 DepEntry.zero).set 94 e;
      scheduleOffender v depot.fleet.live = none ∧ scheduleOffender (v.set 95 e) depot.fleet.live = some (0, 95) ∧
      scheduleOffender (v.set 3 { e with fleet := 9 }) depot.fleet.live = some (0, 3)) := by decide +kernel

/-- Two windows that meet in one minute, and two that touch without meeting; a GRID set that passes with a window in
force. -/
def gridOne : GridSet := { GridSet.empty with windows := GridSet.empty.windows.set 0 ⟨true, 1080, 1140, 100, 30, true⟩,
                                              freq := ⟨49800, 49900, 3, 3⟩ }

theorem witness_Windows :
    (let v : WindowEntry := ⟨true, 1320, 60, 0, 0, false⟩;
     let w : WindowEntry := ⟨true, 59, 61, 0, 0, false⟩
     let x : WindowEntry := ⟨true, 60, 61, 0, 0, false⟩
     v.stop < v.start ∧ w.start < w.stop ∧ v.meets w = true ∧ v.meets x = false ∧ v.contains 59 = true ∧
       w.contains 59 = true) ∧
    gridOne.offender = none ∧ gridOne.windows[0].enabled = true ∧ gridOne.windows[0].contains 1139 = true ∧
    State.reset.clock = none ∧
    ({ depot with grid := { depot.grid with live := gridOne, liveEmpty := false } } : State).windowInForce = some 0 := by
  decide +kernel

/-- GRID: the FREQUENCY entry out of range, and a window that meets an earlier one. -/
theorem witness_GridConsistency : GridSet.empty.offender = some (1, 0) ∧ gridOne.offender = none ∧
    ({ gridOne with windows := gridOne.windows.set 15 ⟨true, 1139, 1200, 1, 1, false⟩ } : GridSet).offender =
      some (0, 15) := by decide +kernel

/-- The depot with a GRID set in force from 18:00 to 19:00, in a reserve state, with energy to lend at stall 0. -/
def armingAt (x : ReserveState) (w : Option WinIx) (lendable clock : Nat) : State := { depot with
  grid := { depot.grid with live := gridOne, liveEmpty := false }
  reserve := ⟨x, w, none, []⟩
  buses := depot.buses.set 0 ⟨some 2600, false, some 0, lendable⟩
  clock := some clock }

/-- Outside the window at 17:59, with what is needed (500 hWh and 100 kW) at 18:00, and one hWh short of it. -/
theorem witness_Arming :
    ((armingAt .armed (some 0) 500 64799).windowInForce = none ∧
      (armingAt .armedShort (some 0) 500 64799).windowInForce = none ∧
      (armingAt .recovery (some 0) 500 64799).windowInForce = none ∧
      (armingAt .disarmed none 500 64799).windowInForce = none) ∧
    (let s := armingAt .disarmed none 500 64800;
      s.windowInForce = some 0 ∧ s.pool = 500 ∧ (s.winEntry 0).holdback = 500 ∧
      s.curtailable + s.dischargeable = (s.winEntry 0).power) ∧
    (let s := armingAt .armed (some 0) 499 64800;
      s.windowInForce = some 0 ∧ s.pool = 499 ∧ s.reserve.state ≠ .armedShort ∧ s.reserve.window = s.windowInForce) := by
  decide +kernel

theorem witness_Lock : PortFree State.reset ∧ State.reset.configured = false ∧ PortFree depot ∧
    depot.configured = true ∧ depot.plant.pending = false ∧
    (let s := { depot with plant := { depot.plant with pending := true } };
      PortFree s ∧ s.configured = true ∧ s.plant.pending = true) :=
  ⟨free_reset, rfl, free_depot, rfl, rfl, ⟨by decide, rfl, rfl, rfl⟩, rfl, rfl⟩

/-! ## Witnesses: clock, setpoints and lines -/

/-- A value just out of range, the last one in range, a forward move, the least one across
the day roll, and the least backward move. -/
theorem witness_SetTime : PortFree depot ∧ 86399 < (86400#32).toNat ∧ (86399#32).toNat ≤ 86399 ∧
    depot.clock = some 64800 ∧ ({ depot with clock := none } : State).clock = none ∧
    ((86399 + 86400 - 64800) % 86400 < 43200 ∧ depot.sdSecond 64800 ≤ depot.sdSecond 86399) ∧
    ((64800 + 86400 - 64799) % 86400 < 43200 ∧ depot.sdSecond 64800 < depot.sdSecond 64799) ∧
    43200 ≤ ((21600#32).toNat + 86400 - 64800) % 86400 ∧ (21600#32).toNat ≤ 86399 :=
  ⟨free_depot, by decide, by decide, rfl, rfl, by decide +kernel, by decide +kernel, by decide, by decide⟩

/-- The minute tick at which the record of minute 40 is reached, its bus in SESSION, and the one of the day roll. A record
that has ended, one of a bus not in the roster, and one behind an open record of its bus. -/
theorem witness_MinuteTick : State.reset.clock = none ∧
    (let s := { depot with clock := some 2399 };
      s.clock = some 2399 ∧ s.policy.live.params.dayRoll < 1440 ∧
      s.deps[0]? = some ⟨2115, 40, 1700, 0, 0, true, .scheduled, false, false⟩ ∧
      s.sdMinute 40 = s.sdMinute ((2399 / 60 + 1) % 1440) ∧ Readiness.scheduled.isOpen = true ∧
      s.rosterIx 2115 = some 0 ∧ (s.bus 0).stall ≠ none ∧ s.rosterIx 9 = none) ∧
    depot.sdMinute ((64799 / 60 + 1) % 1440) = 0 ∧
    depot.sdMinute 40 ≠ depot.sdMinute ((64800 / 60 + 1) % 1440) ∧ Readiness.departed.isOpen = false := by
  decide +kernel

/-- R80, R74: a first SET TIME to 00:40 reaches three records of that minute. Those of the bus in SESSION end NOT_DEPARTED,
one after the other, and the one of a bus not in the roster CANCELLED; without the bus at a stall it is ABSENT. -/
theorem test_reached :
    (let d : Departure := ⟨2115, 40, 1700, 0, 0, true, .scheduled, false, false⟩;
     let s := { depot with clock := none, deps := [d, d, { d with fleet := 9 }] };
      leaves (.setTime 1 2400) s (fun t => t.deps.map (·.state) == [.notDeparted, .notDeparted, .cancelled]) = true ∧
      leaves (.setTime 1 2400) { s with buses := State.reset.buses } (fun t =>
        t.deps.map (·.state) == [.absent, .absent, .cancelled]) = true) := by decide +kernel

/-- A record reached behind an open one of its bus, which only a list out of order holds. -/
theorem witness_MinuteTick_left :
    (let d : Departure := ⟨2115, 41, 1700, 0, 0, true, .scheduled, false, false⟩;
     let s := { depot with clock := some 2399, deps := [d, { d with minute := 40 }] };
      s.deps[0]? = some d ∧ d.state.isOpen = true ∧ s.sdMinute d.minute ≠ s.sdMinute ((2399 / 60 + 1) % 1440) ∧
      s.deps[1]? = some { d with minute := 40 } ∧
      leaves .minuteTick s (fun t => (t.deps.map (·.state.isOpen)) == [true, false]) = true) := by decide +kernel

/-- SCHEDULE entries against the old list: disabled, new, kept, and kept but new because the old one was disabled. -/
theorem witness_Schedule :
    (let e : DepEntry := ⟨2115, 40, 1700, 0, 0, 1⟩;
     let off : Departure := ⟨2115, 40, 1700, 0, 0, false, .disabled, false, false⟩;
      ({ e with enabled := 0 } : DepEntry).enabled = 0#8 ∧ e.enabled ≠ 0#8 ∧
      (∀ x ∈ depot.deps, x.fleet ≠ 2115 ∨ x.minute ≠ 41) ∧
      depot.deps = [] ++ ⟨2115, 40, 1700, 0, 0, true, .scheduled, false, false⟩ :: [] ∧
      ({ depot with deps := [off] } : State).deps = [] ++ off :: [] ∧ off.enabled = false) ∧
    depot.policy.live.params.dayRoll = 1080 ∧ depot.policy.live.params.dayRoll ≠ 1081 := by decide +kernel

theorem witness_SetpointExamined : PortFree State.reset ∧ State.reset.configured = false ∧
    (PortFree depot ∧ depot.configured = true ∧ depot.superv.supervised = false) ∧
    (PortFree ruled ∧ ruled.configured = true ∧ ruled.superv.supervised = true ∧ 47 < (48#8).toNat ∧
      (250 < (251#8).toNat ∧ 251#8 ≠ 0xFF#8) ∧ 1 < (2#8).toNat) ∧
    (¬ (47 < (47#8).toNat ∨ (250 < (250#8).toNat ∧ 250#8 ≠ 0xFF#8) ∨ 1 < (1#8).toNat) ∧
      (47 : StallIx).val = (47#8).toNat ∧ (ruled.stall 47).inService = false) ∧
    ((0 : StallIx).val = (0#8).toNat ∧ (ruled.stall 0).inService = true ∧ (ruled.stall 0).occ ≠ .vacant ∧
      (ruled.stall 0).occ ≠ .faulted) :=
  ⟨free_reset, rfl, ⟨free_depot, rfl, rfl⟩, ⟨free_ruled, rfl, rfl, by decide, by decide, by decide⟩, by decide +kernel,
    by decide +kernel⟩

theorem witness_SetpointServed : PortFree ruled ∧ ruled.configured = true ∧ ruled.superv.supervised = true ∧
    (0 : StallIx).val = (0#8).toNat ∧ ((250#8).toNat ≤ 250 ∨ 250#8 = 0xFF#8) ∧ (1#8).toNat ≤ 1 ∧
    (ruled.stall 0).inService = true ∧ (ruled.stall 0).occ.isPlugged = true ∧
    (ruled.stall 0).lend = decide (0#8 = 0#8) :=
  ⟨free_ruled, rfl, rfl, rfl, by decide, by decide, rfl, rfl, rfl⟩

/-- A stall whose charge is composed, with a cap and without; and one under another controller. -/
theorem witness_Composed : (depot.stall 0).occ.isPlugged = true ∧ (depot.stall 0).controller = .allocator ∧
    (depot.stall 0).handed = 0 ∧ (depot.stall 0).cap = none ∧
    ({ depot.stall 0 with cap := some 40 } : Stall).cap = some 40 ∧
    ({ depot.stall 0 with controller := .reserve } : Stall).controller ≠ .allocator ∧
    (depot.stall 47).occ.isPlugged = false := by decide +kernel

/-- A queue of two groups. -/
def aQueue : List SetEntry := [⟨3, true, true⟩, ⟨20, true, false⟩, ⟨7, false, true⟩, ⟨12, false, false⟩]

theorem witness_Posting : QueueOrdered aQueue ∧ (∀ e ∈ aQueue, e.stall ≠ 47) ∧
    aQueue = [⟨3, true, true⟩, ⟨20, true, false⟩] ++ [⟨7, false, true⟩] ++ [⟨12, false, false⟩] ∧
    aQueue = [⟨3, true, true⟩, ⟨20, true, false⟩] ++ [⟨7, false, true⟩] ++ [⟨12, false, false⟩] ++ [] :=
  ⟨⟨by decide, by decide⟩, by decide, rfl, rfl⟩

/-- A stall last posted exactly 10 s before the new second, across the wrap of the count. -/
theorem witness_PathSecond :
    (let s := { depot0 (fun x => { x with lastPosted := 65530 }) with pathSecond := 3 };
      (s.stall 0).occ.isPlugged = true ∧ 10 ≤ ((3 + 1) % 65536 + 65536 - (s.stall 0).lastPosted) % 65536) ∧
    ¬ (depot.stall 1).occ.isPlugged = true := by decide +kernel

theorem witness_LineSelect : PortFree depot ∧ 1 < (2#8).toNat ∧ 0#8 = oct (StallLine.index .a) ∧ depot.active = .a ∧
    1#8 = oct (StallLine.index .b) ∧ depot.active ≠ .b ∧ (depot.line .b).health = .good ∧
    (let s := { depot with lineB := { depot.lineB with health := .failed } };
      PortFree s ∧ (s.line .b).health = .failed ∧ (s.line s.active).health ≠ .failed) ∧
    (PortFree State.reset ∧ State.reset.active ≠ .b ∧ (State.reset.line .b).health = .failed ∧
      (State.reset.line State.reset.active).health = .failed) ∧
    (let s := { depot with lineB := { depot.lineB with health := .test } };
      PortFree s ∧ (s.line .b).health = .test) :=
  ⟨free_depot, by decide, rfl, rfl, rfl, by decide, rfl, ⟨⟨by decide, rfl, rfl, rfl⟩, rfl, by decide⟩,
    ⟨free_reset, by decide, rfl, rfl⟩, ⟨by decide, rfl, rfl, rfl⟩, rfl⟩

theorem witness_RolesSwap :
    (let s := { depot with lineA := { depot.lineA with tx := some (.set 0 10 0 0) } };
      (s.line s.active).tx = some (.set 0 10 0 0)) ∧
    (let s := { depot with lineA := { depot.lineA with tx := some (.pass aFrame) }, passQ := [aFrame] };
      (s.line s.active).tx = some (.pass aFrame)) ∧
    (let s := { depot with lineA := { depot.lineA with tx := some (.poll 1 (some 0)) } };
      (s.line s.active).tx = some (.poll 1 (some 0)) ∧ s.window = none) ∧
    ({ depot with window := some (.poll 1 (some 0)) } : State).window = some (.poll 1 (some 0)) ∧
    ∀ f, (depot.line depot.active).tx ≠ some (.pass f) :=
  ⟨rfl, rfl, ⟨rfl, rfl⟩, rfl, by intro f h; cases h⟩

theorem witness_LineTestStarts : PortFree depot ∧ 1 < (2#8).toNat ∧ 0#8 = oct (StallLine.index .a) ∧
    depot.active = .a ∧ 1#8 = oct (StallLine.index .b) ∧ depot.active ≠ .b ∧ (depot.line .b).health ≠ .test :=
  ⟨free_depot, by decide, rfl, rfl, rfl, by decide, by decide⟩

/-- Line B in TEST at a frame, its copy back already or not. -/
def testing (number : Nat) (tx : Option StallTx) (looped : Bool) : State := { depot with
  test := some ⟨.b, .good, 0, number, 0, looped⟩
  lineB := { depot.lineB with health := .test, tx := tx }
  office := { depot.office with inHand := some ⟨5, .lineTest 1⟩ } }

theorem witness_TestFrames :
    ((testing 7 (some (.test 7)) false).test = some ⟨.b, .good, 0, 7, 0, false⟩ ∧
      ((testing 7 (some (.test 7)) false).line .b).tx = some (.test 7)) ∧
    ((testing 6 (some (.test 6)) true).test = some ⟨.b, .good, 0, 6, 0, true⟩ ∧
      ((testing 6 (some (.test 6)) true).line .b).tx = some (.test 6) ∧ 6 < 7) ∧
    ((testing 6 none false).test = some ⟨.b, .good, 0, 6, 0, false⟩ ∧ ((testing 6 none false).line .b).tx = none) ∧
    ((testing 7 none false).test = some ⟨.b, .good, 0, 7, 0, false⟩ ∧ ((testing 7 none false).line .b).tx = none ∧
      (testing 7 none false).office.inHand = some ⟨5, .lineTest 1⟩) ∧
    ((testing 7 (some (.test 7)) true).test = some ⟨.b, .good, 0, 7, 0, true⟩ ∧
      ((testing 7 (some (.test 7)) true).line .b).tx = some (.test 7)) :=
  ⟨⟨rfl, rfl⟩, ⟨rfl, rfl, by decide⟩, ⟨rfl, rfl⟩, ⟨rfl, rfl, rfl⟩, rfl, rfl⟩

theorem witness_CensusStart : (PortFree State.reset ∧ State.reset.configured = false) ∧
    (let s := { depot with census := { depot.census with running := true } };
      PortFree s ∧ s.configured = true ∧ s.census.running = true) ∧
    (PortFree depot ∧ depot.configured = true ∧ depot.census.running = false ∧
      (depot.pres 0).presence ≠ .unlisted ∧ ∀ c : DispIx, c < 0 → (depot.pres c).presence = .unlisted) ∧
    (let s := { State.reset with configured := true };
      PortFree s ∧ s.configured = true ∧ s.census.running = false ∧ ∀ d : DispIx, (s.pres d).presence = .unlisted) :=
  ⟨⟨free_reset, rfl⟩, ⟨⟨by decide, rfl, rfl, rfl⟩, rfl, rfl⟩, ⟨free_depot, rfl, rfl, by decide, by decide +kernel⟩,
    ⟨by decide, rfl, rfl, rfl⟩, rfl, rfl, by decide +kernel⟩

theorem witness_Passthrough : (0x18#8 = addrOf 23 ∧ depot.office.rx.state ≠ .brk) ∧ State.reset.configured = false ∧
    depot.configured = true ∧ ¬ (0x30#8 = 0x10#8 ∨ 0x30#8 = 0x12#8 ∨ 0x30#8 = 0x13#8 ∨ 0x30#8 = 0x15#8 ∨
      0x30#8 = 0x17#8 ∨ 0x30#8 = 0x18#8) ∧
    8 ≤ ({ depot with passQ := List.replicate 8 aFrame } : State).passQ.length ∧
    ({ depot with passQ := List.replicate 7 aFrame } : State).passQ.length < 8 := by decide +kernel

/-- The depot while its office line sends something. -/
def sending (x : OfficeTx) : State := { depot with office := { depot.office with tx := some x, slot := some aFrame } }

theorem witness_OfficeTransmissions :
    ((sending (.response aFrame)).office.tx = some (.response aFrame) ∧ aFrame.kind ≠ 0x42#8 ∧
      (sending (.response aFrame)).office.inbound = [] ∧ (sending (.response aFrame)).office.inHand = none) ∧
    (let f : Frame := ⟨0xF0, 0, 0x42, 1, [0]⟩;
      (sending (.response f)).office.tx = some (.response f) ∧ f.kind = 0x42#8 ∧ f.body = [0x00#8]) ∧
    (sending (.forward aFrame)).office.tx = some (.forward aFrame) ∧
    (sending (.event false [])).office.tx = some (.event false []) ∧
    (let s (r : Request) := { sending (.response aFrame) with office := { (sending (.response aFrame)).office with
        inbound := [⟨2, r⟩] } };
     let hand (r : Request) := { s r with office := { (s r).office with
        tx := none, slot := none, inHand := some ⟨2, r⟩, inbound := [] } };
      (s .lock).office.inbound = ⟨2, .lock⟩ :: [] ∧ (s .lock).office.inHand = none ∧
      (s .lock).office.tx = some (.response aFrame) ∧ ((hand .lock).serve .lock).2 = some [0] ∧
      ((hand (.lineTest 1)).serve (.lineTest 1)).2 = none) := by decide +kernel

theorem witness_EventQueue :
    (let e (q : List QueuedRec) : EventQueue := ⟨q, false, some 3, false⟩;
      (e (List.replicate 63 anUrgent)).queue.length < 64 ∧ 64 ≤ (e (List.replicate 64 anUrgent)).queue.length ∧
      (∀ q ∈ (e (List.replicate 64 anUrgent)).queue, q.record.cls = .urgent) ∧
      (e (List.replicate 63 anUrgent ++ [aRoutine])).queue = List.replicate 63 anUrgent ++ aRoutine :: [] ∧
      64 ≤ (e (List.replicate 63 anUrgent ++ [aRoutine])).queue.length ∧
      (∀ x ∈ List.replicate 63 anUrgent, x.record.cls = .urgent)) ∧
    (let s := { depot with events := ⟨[aRoutine], false, some 3, false⟩ };
      s.events.hold = some 3 ∧ s.office.tx = none ∧ s.office.slot = none ∧ s.office.forward = [] ∧
      s.events.urgentReady = false ∧ (s.events.queue.any fun q => q.record.cls == .routine && !q.inFlight) = true) ∧
    (let s := { sending (.forward aFrame) with events := ⟨[aRoutine], false, some 3, false⟩ };
      s.events.hold = some 3 ∧ s.office.tx = some (.forward aFrame)) := by decide +kernel

/-! ## Witnesses: the receivers and the frames of the dispensers -/

theorem witness_BadFrames : ((depot.line .a).rx.state ≠ .brk ∧ (depot.line .a).health ≠ .test) ∧
    (let s := { depot with lineA := { depot.lineA with health := .test } };
      (s.line .a).health = .test ∧ (s.line .a).rx.state ≠ .brk) ∧
    (let s := { depot with lineB := { depot.lineB with rx := ⟨.brk, [], false, true, false⟩, errors := 65535 } };
      (s.line .b).rx.state = .brk) ∧
    depot.site.rx.state ≠ .brk ∧ depot.office.rx.state ≠ .brk := by decide

/-- The depot with the health of its two lines, and auto line switch. -/
def lines (a b : Health) (auto : Bool) : State := { depot with
  lineA := { depot.lineA with health := a }
  lineB := { depot.lineB with health := b }
  policy := { depot.policy with live := { depot.policy.live with params :=
    { depot.policy.live.params with autoSwitch := auto } } } }

theorem witness_LineFaults :
    ((lines .failed .good true).line .a).rx.state ≠ .brk ∧ ((lines .failed .good true).line .a).health = .failed ∧
    (((lines .good .good true).line .b).health = .good ∧ (lines .good .good true).active ≠ .b) ∧
    (((lines .good .good false).line .a).health = .good ∧ ((lines .good .good false).line .b).health = .good ∧
      (lines .good .good false).policy.live.params.autoSwitch = false) ∧
    ((lines .good .good true).active = .a ∧ (lines .good .good true).policy.live.params.autoSwitch = true) ∧
    (let s := { depot with lineA := { depot.lineA with rx := ⟨.brk, [], false, true, false⟩ } }; (s.rx .a).state = .brk) ∧
    (((lines .test .good true).line .a).health = .test ∧ ((lines .test .good true).line .a).rx.state ≠ .brk ∧
      ((lines .good .test true).line (StallLine.other .a)).health = .test) ∧ depot.site.rx.state ≠ .brk ∧ depot.office.rx.state ≠ .brk ∧
    State.reset.presentCount = 0 ∧ 0 < depot.presentCount ∧
    (((lines .good .failed true).line .a).health = .good ∧ ((lines .good .failed true).line .b).health = .failed ∧
      0 < (lines .good .failed true).presentCount) := by decide +kernel

/-- The longest body, and a receiver that hunts. -/
theorem witness_ReceiverReads : (⟨0, 1, 0x30, 0, List.replicate 240 0xC5⟩ : Frame).body.length ≤ 240 ∧
    (Receiver.afterReset false).state = .hunt := by decide +kernel

/-- A receiver in FRAME with the octets decoded so far. -/
def inFrame (buf : List Byte) (esc : Bool) : Receiver := ⟨.frame, buf, esc, false, false⟩

/-- Each state of the receiver, with and without an escape held; a length octet of 240 and one of 241, each the last of
the header; a frame one CRC octet short; and a whole one, with a body of 0 octets and one of 240. -/
theorem witness_ReceiverStates :
    ((⟨.brk, [], false, true, false⟩ : Receiver).state = .brk ∧ (Receiver.afterReset false).state = .hunt ∧
      (⟨.sync1Seen, [], false, false, false⟩ : Receiver).state = .sync1Seen) ∧
    ((inFrame [] true).state = .frame ∧ (inFrame [] true).esc = true ∧ (inFrame [] false).esc = false) ∧
    (0x00#8 ≠ 0x01#8 ∧ 0x03#8 ≠ 0x02#8 ∧ 0xC5#8 ≠ 0x01#8 ∧ 0xC4#8 ≠ 0xC5#8 ∧ 0xB8#8 ≠ 0xB7#8) ∧
    (([0, 1, 0x11] : List Byte) ++ [0]).length < 5 ∧
    (([0, 1, 0x30, 0] : List Byte) ++ [240] = 0 :: 1 :: 0x30 :: 0 :: 240 :: [] ∧ (240#8).toNat ≤ 240 ∧
      240 < (241#8).toNat) ∧
    (([0, 1, 0x30, 0, 0] : List Byte) ++ [7] = 0 :: 1 :: 0x30 :: 0 :: 0 :: [7] ∧ [7#8].length ≠ (0#8).toNat + 2) ∧
    (([0, 1, 0x30, 0, 0, 7] : List Byte) ++ [9] = 0 :: 1 :: 0x30 :: 0 :: 0 :: ([] ++ [7, 9]) ∧
      ([] : List Byte).length = (0#8).toNat) ∧
    (List.replicate 240 0#8).length = (240#8).toNat := by decide +kernel

/-- The header of a frame with no body. -/
def aHeader : List Byte := [0, 1, 0x30, 0, 0]

/-- R17, R18: an escape before 0x03, one before SYNC1, an unescaped SYNC1, a length octet of 241 and one of 240, a CRC
that agrees and one that does not. -/
theorem test_receiver :
    (inFrame [1, 2] true).octet 0x03 = (⟨.hunt, [], false, false, false⟩, .bad) ∧
    (inFrame [1, 2] true).octet 0xC5 = (⟨.sync1Seen, [], false, false, false⟩, .bad) ∧
    (inFrame [1, 2] false).octet 0xC5 = (⟨.sync1Seen, [], false, false, false⟩, .bad) ∧
    (inFrame [0, 1, 0x30, 0] false).octet 241 = (⟨.hunt, [], false, false, false⟩, .bad) ∧
    (inFrame [0, 1, 0x30, 0] false).octet 240 = (inFrame [0, 1, 0x30, 0, 240] false, .quiet) ∧
    (inFrame (aHeader ++ [(crc16 aHeader >>> 8).setWidth 8]) false).octet
      ((crc16 aHeader).setWidth 8) = (⟨.hunt, [], false, false, false⟩, .valid ⟨0, 1, 0x30, 0, []⟩) ∧
    (inFrame (aHeader ++ [(crc16 aHeader >>> 8).setWidth 8]) false).octet
      ((crc16 aHeader).setWidth 8 ^^^ 1) = (⟨.hunt, [], false, false, false⟩, .bad) := by decide +kernel

/-- A receiver one octet short of a frame, and the octet that ends it: a SAMPLE, a DISPATCH ACTIVATE, a request and a
TELEMETRY come whole. -/
def oneShort (f : Frame) : Receiver := ((Receiver.afterReset false).feed (wireOctets f).dropLast).1

def lastOctet (f : Frame) : Byte := (wireOctets f).getLast!

theorem witness_Octets :
    (((depot.rx .a).octet 0xC5).2 = .quiet) ∧
    (let f : Frame := ⟨0, 0xE0, 0x20, 1, List.replicate 8 0⟩;
      ((oneShort f).octet (lastOctet f)).2 = .valid f ∧ f.src = 0xE0 ∧ f.kind = 0x20) ∧
    (let f : Frame := ⟨0xFF, 0xE0, 0x21, 1, [1, 0, 7, 0, 50]⟩;
      ((oneShort f).octet (lastOctet f)).2 = .valid f ∧ f.kind = 0x21 ∧ f.body = 1 :: [0, 7, 0, 50]) ∧
    (let f : Frame := ⟨0, 0xE0, 0x21, 1, [2, 0, 7, 0, 50]⟩;
      ((oneShort f).octet (lastOctet f)).2 = .valid f ∧ f.body = 2 :: [0, 7, 0, 50]) ∧
    (let f : Frame := ⟨0, 0xE0, 0x21, 1, []⟩;
      ((oneShort f).octet (lastOctet f)).2 = .valid f ∧ f.body = []) ∧
    (let f : Frame := ⟨1, 0xE0, 0x20, 1, []⟩;
      ((oneShort f).octet (lastOctet f)).2 = .valid f ∧ f.dest ≠ 0 ∧ f.dest ≠ 0xFF) ∧
    (let f : Frame := ⟨24, 0xF0, 0x30, 1, []⟩; ((oneShort f).octet (lastOctet f)).2 = .valid f ∧ f.dest = addrOf 23) ∧
    (let f : Frame := ⟨25, 0xF0, 0x30, 1, []⟩;
      ((oneShort f).octet (lastOctet f)).2 = .valid f ∧ f.dest ≠ 0 ∧ dispAt f.dest = none) ∧
    (let f : Frame := ⟨0, 0, 0x18, 3, [0xC5, 0xB7, 0x3A, 0, 0xFF, 0x55, 0xAA, 1]⟩;
      ((oneShort f).octet (lastOctet f)).2 = .valid f ∧ ((lines .good .test true).line .b).health = .test) ∧
    ((oneShort ⟨0, 0xF0, 0x49, 1, []⟩).octet 0xC5).2 = .bad ∧
    (let f : Frame := ⟨0, 0xF0, 0x49, 1, []⟩;
      ((oneShort f).octet (lastOctet f)).2 = .valid f ∧ f.src = 0xF0 ∧ f.dest = 0) ∧
    (let f : Frame := ⟨0xF0, 1, 0x11, 1, List.replicate 12 0⟩;
      ((oneShort f).octet (lastOctet f)).2 = .valid f ∧ f.kind = 0x11 ∧ (depot.line .a).health ≠ .test) ∧
    (let f : Frame := ⟨0, 1, 0x14, 1, []⟩; ((oneShort f).octet (lastOctet f)).2 = .valid f) ∧
    (let f : Frame := ⟨0, 1, 0x16, 1, []⟩; ((oneShort f).octet (lastOctet f)).2 = .valid f) ∧
    (let f : Frame := ⟨0xF0, 1, 0x30, 1, []⟩; ((oneShort f).octet (lastOctet f)).2 = .valid f) ∧
    (depot.rx .meter).state ≠ .brk ∧ (depot.rx .office).state ≠ .brk := by decide +kernel

/-- A DISPATCH with no body has no action that is taken. -/
theorem witness_Octets_malformed (rest : List Byte) : ([] : List Byte) ≠ 1#8 :: rest ∧ ([] : List Byte) ≠ 2#8 :: rest :=
  ⟨nofun, nofun⟩

theorem witness_Telemetry : 1#8 = addrOf 0 ∧ depot.active = .a ∧ (depot.line .a).health = .good ∧
    (depot.line .a).rx.state ≠ .brk ∧ ({ depot with window := some (.poll 0 none) } : State).pollOpen 0 = true ∧
    depot.pollOpen 0 = false ∧ (telemetryRecords (List.replicate 12 0)).isSome = true ∧
    (telemetryRecords (List.replicate 24 0)).isSome = true ∧ telemetryRecords (List.replicate 13 0) = none := by
  decide +kernel

/-- A record with a SoC of 50 percent, and one without. -/
def aRecord (soc : Nat) (counter : Int) : PortRecord := ⟨true, 0, soc, 30, counter, 0⟩

theorem witness_PortRecord : (depot.stall 47).inService = false ∧ (depot.stall 0).inService = true ∧
    (aRecord 1000 0).fault = 0 ∧ (aRecord 1000 0).plugged = true ∧ ({ aRecord 0 0 with fault := 1 } : PortRecord).fault ≠ 0 ∧
    ({ aRecord 0 0 with plugged := false } : PortRecord).plugged = false := by decide +kernel

/-- At SoC 1000 and 1001, a step that moves the estimate just to the capacity, and one just past what the counter may
move. -/
theorem witness_Estimate : (depot.stall 0).inService = true ∧ (depot.stall 0).occ = .session ∧
    (depot.stall 0).bus = some 0 ∧ (depot.bus 0).stall = some 0 ∧ (aRecord 1000 0).soc ≤ 1000 ∧
    (aRecord 1000 0).fleet = 0 ∧ 1000 < (aRecord 1001 0).soc ∧ (depot.bus 0).energy = some 2600 ∧
    (depot.stall 0).baseline = some 1000 ∧
    (let delta : Int := 41000 - 1000 + (depot.stall 0).residue;
      (41000 - 1000 : Int).natAbs ≤ 100 * (depot.busEntry 0).capacity ∧ 0 ≤ 2600 + delta.tdiv 100 ∧
      2600 + delta.tdiv 100 ≤ (depot.busEntry 0).capacity) ∧
    100 * (depot.busEntry 0).capacity < (301001 - 1000 : Int).natAbs := by decide +kernel

/-- The depot with its census at address 1, the probe's window open. -/
def probing (miss : Nat) : State := { depot with
  window := some (.census 0)
  census := ⟨true, some 0, true, Vector.replicate 24 false⟩
  presence := depot.presence.set 0 ⟨.unprobed, miss, none⟩ }

theorem witness_CensusReport : 1#8 = addrOf 0 ∧ (probing 0).active = .a ∧ ((probing 0).line .a).health = .good ∧
    ((probing 0).line .a).rx.state ≠ .brk ∧ (probing 0).window = some (.census 0) ∧
    (probing 0).census.probe = some 0 ∧ ((probing 0).pres 0).presence ≠ .unlisted ∧
    (reportOf [2, 1, 0x90, 0, 250, 0, 250, 1]).isSome = true ∧ reportOf [] = none ∧
    ((0 : DispIx) < 1 ∧ ((probing 0).pres 1).presence ≠ .unlisted) ∧ depot.window ≠ some (.census 0) ∧
    ((probing 0).pres 23).presence = .unlisted ∧ (probing 0).census.unlistedSeen[23] = false ∧
    (let s := { probing 0 with census := { (probing 0).census with unlistedSeen := Vector.replicate 24 true } };
      (s.pres 23).presence = .unlisted ∧ s.census.unlistedSeen[23] = true) := by decide +kernel

theorem witness_WindowsExpire :
    ({ depot with window := some (.poll 0 none) } : State).window = some (.poll 0 none) ∧
    (probing 0).window = some (.census 0) ∧ ((probing 0).pres 0).miss = 0 ∧ ((probing 1).pres 0).miss ≠ 0 := by
  decide +kernel

theorem witness_Replies : 1#8 = addrOf 0 ∧ (depot.line .b).health = .good ∧ (depot.line .b).rx.state ≠ .brk ∧
    (depot.line .a).health = .good ∧ (depot.line .a).rx.state ≠ .brk ∧ depot.active ≠ .b ∧ depot.active = .a ∧
    (let s := { depot with lineB := { depot.lineB with checkOut := some 0 } }; (s.line .b).checkOut = some 0) ∧
    (depot.line .b).checkOut ≠ some 0 ∧ (0x30#8 ≠ 0x11#8 ∧ 0x30#8 ≠ 0x14#8 ∧ 0x30#8 ≠ 0x16#8) ∧
    (let s := { depot with office := { depot.office with forward := List.replicate 31 aFrame } };
      s.office.forward.length < 32) ∧
    (let s := { depot with office := { depot.office with forward := List.replicate 32 aFrame } };
      32 ≤ s.office.forward.length) ∧
    (24 < (25#8).toNat ∧ 24 < (0xFF#8).toNat) := by decide +kernel

/-- The depot with line A or line B FAILED at a qualification count. -/
def qualifying (l : StallLine) (other : Health) (count : Nat) : State :=
  (match l with
    | .a => lines .failed other true
    | .b => lines other .failed true).modLine l fun x => { x with qual := count }

/-- The count just below 3 and well below it, in either role, with the ACTIVE line good and FAILED; frames from no
dispenser and from dispenser 1, in and out of a POLL window. -/
theorem witness_Qualifies :
    (∀ l : StallLine, ∀ n ∈ [1, 2], ((qualifying l .good n).line l).health = .failed ∧
      ((qualifying l .good n).line l).rx.state ≠ .brk ∧ ((qualifying l .good n).line l).qual = n) ∧
    ((qualifying .b .good 1).active ≠ .b ∧ (qualifying .a .good 1).active = .a) ∧
    (let s := qualifying .b .failed 2;
      s.active ≠ .b ∧ (s.line s.active).health = .failed ∧ s.policy.live.params.autoSwitch = true) ∧
    (dispAt 0 = none ∧ dispAt 25 = none ∧ 1#8 = addrOf 0) ∧
    ((qualifying .b .good 1).line .b).checkOut ≠ some 0 ∧
    (((qualifying .b .good 1).modLine .b fun x => { x with checkOut := some 0 }).line .b).checkOut = some 0 ∧
    ({ qualifying .a .good 1 with window := some (.poll 0 none) } : State).pollOpen 0 = true ∧
    (qualifying .a .good 1).pollOpen 0 = false ∧
    (let s := (probing 0).modLine .a fun x => { x with health := .failed, qual := 1 };
      (s.line .a).health = .failed ∧ s.window = some (.census 0) ∧ s.census.probe = some 0 ∧
      (s.pres 0).presence ≠ .unlisted ∧ (s.pres 23).presence = .unlisted ∧ s.census.unlistedSeen[23] = false) ∧
    (0x30#8 ≠ 0x11#8 ∧ 0x30#8 ≠ 0x14#8 ∧ 0x30#8 ≠ 0x16#8) := by
  refine ⟨fun l => ?_, by decide +kernel⟩
  cases l <;> decide +kernel

/-- R31: a CHECK REPLY is the third valid frame of a FAILED STANDBY line, and the ACTIVE line is FAILED; a TELEMETRY is
the third of a FAILED ACTIVE line. -/
theorem test_qualifies :
    leaves (.checkReply .b 0 1 0 []) (qualifying .b .failed 2) (fun t => t.active == .b && t.lineB.health == .good) = true ∧
    leaves (.telemetry .a 0 1 0 []) (qualifying .a .good 2) (fun t => t.active == .a && t.lineA.health == .good) = true := by
  decide +kernel

/-! ## Witnesses: the stall lines' transmissions and timers -/

/-- The depot while a stall line sends something. -/
def onLine (l : StallLine) (x : StallTx) : State := depot.modLine l fun y => { y with tx := some x }

theorem witness_StallTransmissions : (onLine .a (.poll 0 none)).activeTx = some (.poll 0 none) ∧
    (onLine .a (.census 0 true)).activeTx = some (.census 0 true) ∧
    (onLine .a (.census 0 false)).activeTx = some (.census 0 false) ∧
    (onLine .a (.set 0 10 0 0)).activeTx = some (.set 0 10 0 0) ∧
    (onLine .a (.pass aFrame)).activeTx = some (.pass aFrame) ∧
    ((onLine .b (.fill 255)).line .b).tx = some (.fill 255) ∧
    (let s (n : Nat) := (onLine .b (.check 1)).modLine .b fun y => { y with unanswered := n, checkOut := some 0 };
      ((s 1).line .b).tx = some (.check 1) ∧ ((s 1).line .b).unanswered < 2 ∧ ((s 2).line .b).unanswered = 2 ∧
      ((s 2).line .b).checkOut = some 0 ∧ (s 2).active ≠ .b ∧ ((s 2).line .b).health = .good ∧
      ((s 2).line (StallLine.other .b)).health = .good) := by decide +kernel

theorem witness_QuietLines : ((State.reset.line .a).tx = none ∧ State.reset.configured = false ∧
      (State.reset.line .a).health ≠ .test ∧ (State.reset.line State.reset.standby).checkDue = false ∧
      (State.reset.finish.line .a).tx = none) ∧
    ((depot.line .a).tx = none ∧ (depot.line .a).health ≠ .test ∧ (depot.finish.line .a).tx ≠ none) ∧
    ((depot.line .b).tx = none ∧ depot.active ≠ .b ∧ (depot.line .b).health ≠ .test ∧ 0 < depot.presentCount ∧
      (depot.line .b).checkDue = false ∧ (depot.finish.line .b).tx = none ∧
      depot.nextPresent (depot.line .b).rotation = some 0) ∧
    (((lines .good .test true).line .b).health = .test ∧ ((lines .good .test true).line .b).tx = none) ∧
    (depot.active = .a ∧ State.reset.presentCount = 0) := by decide +kernel

/-! ## Witnesses: ages, samples, lending, dispatch and rounds -/

theorem witness_Ages : (depot.stall 0).fresh = .fresh ∧ (depot.stall 0).bus = some 0 ∧
    ((depot0 fun x => { x with bus := none }).stall 0).bus = none ∧
    ((depot0 fun x => { x with fresh := .stale }).stall 0).fresh = .stale ∧ (depot.stall 47).fresh ≠ .fresh ∧
    (depot.stall 0).fresh ≠ .stale := by decide +kernel

/-- Import and frequency at the edges of R56, and one past an edge; a destination beside each one that is taken. -/
theorem witness_Sample : (0x00#8 = 0x00#8 ∨ 0x00#8 = 0xFF#8) ∧ (0x01#8 ≠ 0x00#8 ∧ 0xFE#8 ≠ 0xFF#8) ∧ depot.site.rx.state ≠ .brk ∧
    sampleOf [0x27, 0x10, 0, 1, 0x11, 0x70, 0, 9] = some ⟨10000, 70000, 9⟩ ∧
    sampleOf [0xD8, 0xF0, 0, 0, 0x9C, 0x40, 0, 9] = some ⟨-10000, 40000, 9⟩ ∧
    sampleOf [0x27, 0x11, 0, 1, 0x11, 0x70, 0, 9] = none ∧ depot.site.fresh = false ∧
    (let s := { depot with site := { depot.site with fresh := true, sample := some ⟨0, 50000, 9⟩ } };
      s.site.fresh = true ∧ s.site.sample = some ⟨0, 50000, 9⟩) := by decide +kernel

/-- The depot with a GRID set: trip below 49800 mHz, restore from 49900 mHz, each by 3 samples. -/
def gridded (low : Bool) (n : Nat) : State := { depot with
  grid := { depot.grid with live := gridOne, liveEmpty := false }
  site := { depot.site with low := low, trip := n, restore := n } }

theorem witness_Frequency : ((gridded false 0).site.low = false ∧ (gridded false 0).grid.live.freq.trip ≤ 49800) ∧
    (49799 < (gridded false 1).grid.live.freq.trip ∧
      (gridded false 1).site.trip + 1 < (gridded false 1).grid.live.freq.tripCount) ∧
    (gridded false 2).grid.live.freq.tripCount ≤ (gridded false 2).site.trip + 1 ∧
    ((gridded true 0).site.low = true ∧ 49899 < (gridded true 0).grid.live.freq.restore) ∧
    ((gridded true 1).grid.live.freq.restore ≤ 49900 ∧
      (gridded true 1).site.restore + 1 < (gridded true 1).grid.live.freq.restoreCount) ∧
    (gridded true 2).grid.live.freq.restoreCount ≤ (gridded true 2).site.restore + 1 := by decide +kernel

/-- Site storage as R132 to R135 find it: in a state with a target, enabled, the meter FRESH with a last building load
against the feeder's 1000 kW, and 900 hWh to lend at stall 0. -/
def storing (x : StorageState) (target : Option Nat) (load : Nat) : State := { depot with
  storage := ⟨x, target, 0, 0⟩
  site := { depot.site with fresh := true, lastLoad := some load }
  policy := { depot.policy with live := { depot.policy.live with params :=
    { depot.policy.live.params with storageEnable := true, shaveThreshold := 20 } } }
  buses := depot.buses.set 0 ⟨some 2600, false, some 0, 900⟩ }

/-- The same with the reserve ARMED under window 0, whose holdback is 500 hWh, and with less to lend. -/
def heldBack (x : StorageState) : State := { storing x (some 30) 900 with
  grid := { depot.grid with live := gridOne, liveEmpty := false }
  reserve := ⟨.armed, some 0, none, []⟩
  buses := depot.buses.set 0 ⟨some 2600, false, some 0, 500⟩ }

theorem witness_Storage : (depot.site.fresh = false ∧ depot.storage.state = .inhibited) ∧
    ({ depot with storage := ⟨.idle, none, 0, 0⟩ } : State).storage.state = .idle ∧
    ({ depot with storage := ⟨.shaving, some 30, 0, 0⟩ } : State).storage.state = .shaving ∧
    ((storing .inhibited none 0).policy.live.params.storageEnable = true ∧ (storing .inhibited none 0).site.fresh = true ∧
      (storing .inhibited none 0).reserve.state = .disarmed) ∧
    ((heldBack .idle).holdback = some 500 ∧ (heldBack .idle).pool = 500 ∧ (heldBack .shaving).storage.state = .shaving) ∧
    ((storing .idle none 1019).shaveTarget = 19 ∧ (storing .idle none 1020).shaveTarget = 20 ∧
      (storing .idle none 1020).pool = 900 ∧ ((storing .idle none 1020).spread .storage 20).2 = (20, 0)) ∧
    ((storing .shaving (some 30) 1000).shaveTarget = 0 ∧ (storing .shaving (some 30) 1011).shaveTarget = 11 ∧
      (storing .shaving (some 30) 1010).shaveTarget = 10 ∧ (storing .shaving (some 30) 1050).shaveTarget = 50) := by
  decide +kernel

theorem witness_MeterStale : depot.site.fresh = false ∧ depot.storage.state ≠ .shaving ∧
    ({ depot with site := { depot.site with fresh := true } } : State).site.fresh = true := by decide +kernel

/-- A deadline just above the protection horizon of 180 minutes, and one at it. -/
theorem witness_Lendable : (depot.bus 0).stall = some 0 ∧ (depot.stall 0).occ = .session ∧
    (depot.stall 0).inService = true ∧ (depot.stall 0).fresh = .fresh ∧ (depot.eff (dispOf 0)).discharge = true ∧
    (depot.busEntry 0).enrolled ≠ 0#8 ∧ (depot.stall 0).lend = true ∧ (depot.stall 0).prot = false ∧
    (depot.bus 0).energy = some 2600 ∧ (depot.bus 63).energy = none ∧ depot.activeDep 63 = none ∧
    depot.activeDep 0 = some ⟨2115, 40, 1700, 0, 0, true, .scheduled, false, false⟩ ∧
    ({ depot with clock := none } : State).clock = none ∧
    (180 : Int) < depot.sdMinute 40 - 0 - depot.sdMinute (77940 / 60) ∧
    (depot.sdMinute 40 : Int) - 0 - depot.sdMinute (78000 / 60) ≤ 180 := by decide +kernel

/-- The depot with 900 hWh to lend at stall 0. -/
def lending : State := { depot with buses := depot.buses.set 0 ⟨some 2600, false, some 0, 900⟩ }

/-- Chapter 8, a reserve spread of 120 kW with stall A alone: it is placed its 100 kW, and 20 kW stay short. -/
theorem test_spread : lending.placeAll .reserve [] 120 (lending.candidates .reserve) = ([(0, 100)], 20) := by
  decide +kernel

theorem witness_Spread : 0 ∈ lending.candidates .reserve ∧
    (lending.placeAll .reserve [] 120 (lending.candidates .reserve)).1 = [] ++ (0, 100) :: [] ∧
    (0, 100) ∈ (lending.placeAll .reserve [] 120 (lending.candidates .reserve)).1 ∧ 0 < 100 ∧
    (let s := lending.modStall 47 fun x => { x with owner := some .reserve, discharge := 10 };
      (s.stall 47).owner = some .reserve ∧ (s.stall 1).owner ≠ some .reserve ∧
      (s.placeAll .reserve [] 120 (s.candidates .reserve)).1 = [(0, 100)]) := by decide +kernel

/-- The depot in a reserve state under window 0. -/
def reserved (x : ReserveState) (act : Option Activation) : State :=
  { gridded false 0 with reserve := ⟨x, some 0, act, []⟩ }

/-- An activation of 30 minutes under request 7. -/
def anAct (elapsed : Nat) : Activation where
  trigger := .dispatch
  requestId := some 7
  target := 50
  window := ⟨true, 1080, 1140, 100, 30, true⟩
  windowIx := 0
  baseline := 200
  start := 64800
  elapsed := elapsed
  frozen := 0
  curtailed := 0
  placed := 0
  shortfall := 0
  delivered := none
  tripSeen := false
  ended := none

theorem witness_Activates : (0x00#8 = 0x00#8 ∨ 0x00#8 = 0xFF#8) ∧ depot.site.rx.state ≠ .brk ∧
    (0#8).toNat * 256 + (0#8).toNat = 0 ∧ (0#8).toNat * 256 + (1#8).toNat ≠ 0 ∧ depot.reserve.state = .disarmed ∧
    (let s := { depot with reserve := ⟨.recovery, none, some (anAct 60), []⟩ };
      s.reserve.state = .recovery ∧ s.windowInForce = none) ∧
    ((reserved .armed none).reserve.state = .armed ∧ (reserved .armed none).reserve.window = some 0) ∧
    (reserved .armedShort none).reserve.state = .armedShort ∧
    ((reserved .armed none).stall 0).occ.isPlugged = true ∧ ((reserved .armed none).stall 0).prot = false ∧
    ((reserved .recovery none).reserve.state = .recovery ∧ (reserved .recovery none).windowInForce = some 0) ∧
    ((reserved .active (some (anAct 0))).reserve.state = .active ∧
      (reserved .active (some (anAct 0))).reserve.act = some (anAct 0)) := by decide +kernel

theorem witness_Releases : (reserved .active (some (anAct 0))).reserve.state = .active ∧
    (reserved .active (some (anAct 0))).reserve.act = some (anAct 0) ∧
    (anAct 0).requestId = some ((0#8).toNat * 256 + (7#8).toNat) ∧
    (anAct 0).requestId ≠ some ((0#8).toNat * 256 + (8#8).toNat) ∧
    (reserved .active (some (anAct 0))).storage.state ≠ .shaving ∧ (reserved .armed none).reserve.state ≠ .active := by
  decide +kernel

theorem witness_ActivationMinutes : depot.reserve.state ≠ .active ∧
    (reserved .active (some (anAct 1799))).reserve.state = .active ∧
    (reserved .active (some (anAct 1799))).reserve.act = some (anAct 1799) ∧
    (anAct 1799).elapsed < 60 * (anAct 1799).window.maxMinutes := by decide +kernel

theorem witness_PeriodExpiry : (depot.plant.pending = false ∧ depot.fleet.pending = false ∧
      depot.schedule.pending = false ∧ depot.grid.pending = false ∧ depot.policy.pending = false) ∧
    depot.reserve.state ≠ .recovery ∧ (depot.stall 1).takesPart = false := by decide +kernel

/-- Each set PENDING; and a FLEET set before a swap that empties an entry, moves a bus, keeps one and disables one. -/
theorem witness_Swaps :
    ({ depot with plant := { depot.plant with pending := true } } : State).plant.pending = true ∧
    ({ depot with fleet := { depot.fleet with pending := true } } : State).fleet.pending = true ∧
    ({ depot with schedule := { depot.schedule with pending := true } } : State).schedule.pending = true ∧
    ({ depot with grid := { depot.grid with pending := true } } : State).grid.pending = true ∧
    ({ depot with policy := { depot.policy with pending := true } } : State).policy.pending = true ∧
    (depot.busEntry 1).fleet = 0 ∧ (depot.busEntry 0).fleet ≠ 0 ∧ (depot.busEntry 0).enabled ≠ 0#8 ∧
    (let old := (Vector.replicate 64 BusEntry.zero).set 63 ⟨2115, 2000, 100, 150, 100, 1, 1⟩;
      old[63].fleet = (depot.busEntry 0).fleet ∧ ∀ c : BusIx, c < 63 → old[c.val].fleet ≠ (depot.busEntry 0).fleet) ∧
    (let s := { depot with fleet := { depot.fleet with live := depot.fleet.live.set 0 ⟨2115, 3000, 100, 150, 100, 1, 0⟩ } };
      ∀ c, (s.busEntry c).fleet = (s.busEntry 0).fleet → (s.busEntry c).enabled = 0#8) := by decide +kernel

/-- The depot after the commit of a FLEET set in which 2115 stands at roster index 5 with a capacity of 2500 hWh. -/
def moved (enabled : Byte) : State := { depot0 fun x => { x with residue := 7 } with
  fleet := { depot.fleet with live := (Vector.replicate 64 BusEntry.zero).set 5 ⟨2115, 2500, 100, 150, 100, 1, enabled⟩ } }

/-- The live set before the swap names bus 0 of stall 0; after it 2115 is matched at index 5, or in the roster no more. -/
theorem witness_Matched : Associated (moved 1) ∧ FleetDistinct depot.fleet.live ∧ FleetDistinct (moved 1).fleet.live ∧
    ((moved 1).stall 0).bus = some 0 ∧ ((moved 1).stall 1).bus = none ∧
    (moved 1).rosterIx depot.fleet.live[0].fleet = some 5 ∧ (moved 0).rosterIx depot.fleet.live[0].fleet = none ∧
    (depot.fleet.live[0].fleet ≠ 0 ∧ ((moved 1).busEntry 5).fleet = depot.fleet.live[0].fleet ∧
      ∀ c : BusIx, c < 5 → ((moved 1).busEntry c).fleet ≠ depot.fleet.live[0].fleet) ∧
    (∀ b, (State.reset.busEntry b).fleet ≠ depot.fleet.live[0].fleet) ∧
    ((moved 1).busEntry 5).capacity < ((moved 1).bus 0).energy.getD 0 ∧ Associated (moved 0) ∧
    FleetDistinct (moved 0).fleet.live :=
  ⟨⟨by decide +kernel, by decide +kernel, by decide +kernel⟩, distinct_depot, by unfold FleetDistinct; decide +kernel,
    by decide +kernel, by decide +kernel, by decide +kernel, by decide +kernel, by decide +kernel, by decide +kernel,
    by decide +kernel, ⟨by decide +kernel, by decide +kernel, by decide +kernel⟩,
    by unfold FleetDistinct; decide +kernel⟩

/-- R52: the stall's bus field follows the bus to its new index, and its residue goes with the lowered estimate. -/
theorem test_matched : (let x := ((moved 1).fleetSwapped depot.fleet.live).stall 0;
      x.bus = some 5 ∧ x.occ = .session ∧ x.residue = 0 ∧ x.baseline = some 1000) ∧
    (let x := ((moved 0).fleetSwapped depot.fleet.live).stall 0; x.bus = none ∧ x.occ = .guest ∧ x.residue = 0) := by
  decide +kernel

theorem witness_RoundsKeep : ∃ t, exec .allocationPeriodExpiry depot = .next t := ⟨_, rfl⟩

/-- Budgets that bind, and budgets that do not. -/
theorem witness_Fit : (150 : Nat) ≤ 200 ∧ 80 + 40 > 150 - (100 : Nat) ∧ 10 + 10 ≤ 100 - (0 : Nat) := by decide

/-! ## Witnesses: departures, occupancy, rounds and the reserve in full -/

/-- The record of 00:40 as it stands, its bus with an estimate, at a time of day. The target is 2000 hWh. -/
def dep0 (x : Readiness) (short risk : Bool) : Departure := ⟨2115, 40, 1700, 0, 0, true, x, short, risk⟩

def due (d : Departure) (energy clock : Nat) : State := { depot with
  deps := [d], buses := depot.buses.set 0 ⟨some energy, false, some 0, 0⟩, clock := some clock }

theorem active_due (x : Readiness) (a b : Bool) (e n : Nat) (h : x.isOpen = true) :
    ActiveAt (due (dep0 x a b) e n) 0 0 (dep0 x a b) :=
  ⟨h, show (depot.busEntry 0).fleet ≠ 0 by decide, show (depot.busEntry 0).enabled ≠ 0#8 by decide, rfl,
    fun j _ hj => absurd hj (Nat.not_lt_zero j)⟩

/-- A deadline just reached at 00:40 and one minute off, a need of 1 hWh and of none, and a record at risk by 1 hWh. -/
theorem witness_Evaluated : Readiness.departed.isOpen = false ∧ depot.rosterIx 2115 = some 0 ∧ depot.rosterIx 9 = none ∧
    (depot.bus 0).stall ≠ none ∧ (depot.bus 1).stall = none ∧
    (let s := due (dep0 .charging false false) 1999 2400;
      s.clock = some 2400 ∧ deadlineFigure s (dep0 .charging false false) 2400 = 0 ∧
      needFigure s 0 (dep0 .charging false false) = 1) ∧
    (let s := due (dep0 .conditioning true false) 2000 2399;
      deadlineFigure s (dep0 .conditioning true false) 2399 = 1 ∧ needFigure s 0 (dep0 .conditioning true false) = 0) ∧
    riskFigure (due (dep0 .charging false false) 1999 2399) 0 (dep0 .charging false false) 2399 = 1 := by decide +kernel

theorem witness_NotAtRisk : ¬ AtRisk depot (dep0 .scheduled false true) := by
  rintro ⟨h | h, _⟩ <;> cases h

/-- R79: the unplug 45 minutes before 00:40 is inside the release window, one minute earlier is not; a
bus with no record of its own; and one record of another bus. -/
theorem witness_Unplug :
    (let s := due (dep0 .ready false false) 2000 86100;
      (s.sdMinute 40 : Int) - s.policy.live.params.releaseWindow ≤ s.sdMinute (86100 / 60)) ∧
    (let s := due (dep0 .ready false false) 2000 86099;
      ¬ (s.sdMinute 40 : Int) - s.policy.live.params.releaseWindow ≤ s.sdMinute (86099 / 60)) ∧
    needFigure (due (dep0 .ready false false) 2000 86100) 0 (dep0 .ready false false) = 0 ∧
    0 < needFigure (due (dep0 .charging false false) 1999 86100) 0 (dep0 .charging false false) ∧
    ({ depot with deps := [] } : State).deps = [] ∧ (depot.rosterIx (depot.busEntry 0).fleet = some 0) ∧
    9 ≠ (depot.busEntry 0).fleet := by decide +kernel

/-- The occupancies and records of R41 to R46, at a plugged stall of a depot whose stall 1 is silent or heard. -/
theorem witness_Occupancy :
    (let v (o : Occupancy) := depot0 fun x => { x with occ := o, bus := none, fleetNo := some 9 };
      ((v .faulted).stall 0).occ = .faulted ∧ ((v .vacant).stall 0).bus = none ∧ ((v .guest).stall 0).fleetNo = some 9 ∧
      ((v .conflict).stall 0).occ ≠ .session ∧ ((v .vacant).stall 0).occ.isPlugged = false) ∧
    ((depot.stall 0).occ = .session ∧ (depot.stall 0).bus = some 0 ∧ (depot.stall 0).occ.isPlugged = true) ∧
    (let p : PortRecord := { aRecord 0 0 with fleet := 9 }; p.fleet ≠ 0 ∧ depot.rosterIx p.fleet = none) ∧
    (let p : PortRecord := { aRecord 0 0 with fleet := 2115 };
      p.fleet ≠ 0 ∧ depot.rosterIx p.fleet = some 0 ∧ (depot.stall 1).occ ≠ .session ∧ (depot.stall 1).bus = none ∧
      (depot.bus 0).stall = some 0 ∧ (depot.stall 0).fresh = .fresh ∧ (State.reset.bus 0).stall = none) ∧
    ((depot0 fun x => { x with fresh := .stale }).stall 0).fresh ≠ .fresh ∧
    (let s := depot.modStall 1 fun x => { x with occ := .conflict, partner := some 0 };
      (s.stall 1).occ = .conflict ∧ (s.stall 1).partner = some 0) := by decide +kernel

/-- R45, R116: a rostered bus reported at stall 1 while stall 0 is STALE moves there, which is posted. -/
theorem test_moved :
    (let s := (depot0 fun x => { x with fresh := .stale }).modStall 1 fun x => { x with inService := true };
     let t := s.portRecord 1 { aRecord 1001 0 with fleet := 2115 };
      (t.stall 1).occ == .session && (t.stall 0).occ == .unidentified && (t.bus 0).stall == some 1 &&
        t.setQ.any (·.stall == 1) && t.records.map (·.kind) == [.busMoved]) = true := by decide +kernel

/-- The first record of an association, a step past each end of the estimate's range, and an UNKNOWN estimate. -/
theorem witness_Estimate_ends :
    (let s := { depot.modStall 1 fun x => { x with inService := true } with buses := State.reset.buses };
      (s.stall 1).inService = true ∧ (s.stall 1).occ ≠ .session ∧ (s.stall 1).bus = none ∧ (s.bus 0).stall = none ∧
      s.rosterIx 2115 = some 0 ∧ (s.bus 0).energy = none) ∧
    ((-269000 - 1000 : Int).natAbs ≤ 100 * (depot.busEntry 0).capacity ∧
      2600 + (-269000 - 1000 + (depot.stall 0).residue : Int).tdiv 100 < 0) ∧
    ((41100 - 1000 : Int).natAbs ≤ 100 * (depot.busEntry 0).capacity ∧
      ((depot.busEntry 0).capacity : Int) < 2600 + (41100 - 1000 + (depot.stall 0).residue : Int).tdiv 100) := by
  decide +kernel

/-- Good keys beside a dispenser on no panel; the reserve ACTIVE at the last minute of its window and at the first
after it; a cap below the grant; the samples next in order and one on. -/
theorem witness_Clauses :
    (depot.plant.live.site.keyA ≠ 0 ∧ depot.plant.live.site.keyB ≠ 0 ∧
      depot.plant.live.site.keyB ≠ depot.plant.live.site.keyA) ∧
    (let s (n : Nat) := { reserved .active (some (anAct 0)) with clock := some n };
      (anAct 0).window.contains (68399 / 60) = true ∧ (anAct 0).window.contains (68400 / 60) = false ∧
      (s 68400).reserve.state = .active ∧ (s 68400).reserve.act = some (anAct 0) ∧ (s 68400).clock = some 68400 ∧
      (s 68400).reserve.state ≠ .disarmed ∧ (reserved .recovery none).reserve.state = .recovery) ∧
    (let s := ruled.modStall 0 fun x => { x with grant := 60, sp := ⟨60, 0, 0⟩ };
      min (40#8).toNat (s.effPort 0) = 40 ∧ 40 < (s.stall 0).grant) ∧
    (sampleOf [0, 1, 0, 1, 0x11, 0x70, 0, 10] = some ⟨1, 70000, 10⟩ ∧ 10 = (9 + 1) % 65536 ∧ 11 ≠ (9 + 1) % 65536 ∧
      depot.site.sample = none) ∧
    (1#8 ≠ 0x00#8 ∧ 1#8 ≠ 0xFF#8 ∧ 0x00#8 ≠ 0xF0#8 ∧ ([1, 2, 3] : List Byte).length ≠ 4) := by decide +kernel

/-- A pass-through frame to dispenser 1, a probe being sent or awaited, and an ABSENT address beside an IDLE census. -/
theorem witness_RolesSwap_events :
    (let f : Frame := ⟨1, 0xF0, 0x30, 1, []⟩;
      ((onLine .a (.pass f)).line (onLine .a (.pass f)).active).tx = some (.pass f) ∧ f.dest = addrOf 0) ∧
    ((onLine .a (.census 0 true)).line .a).tx = some (.census 0 true) ∧ (probing 0).window = some (.census 0) ∧
    (let s := { depot with presence := depot.presence.set 1 ⟨.absent, 2, none⟩ };
      s.census.running = false ∧ (s.pres 1).presence = .absent ∧ (s.pres 2).presence = .unlisted) ∧
    (probing 0).census.running = true := by decide +kernel

/-- A routine record that joins an empty queue and one that joins 7 waiting ones with a threshold of 8; the only
waiting routine record displaced, one of two, and one whose frame is being sent. -/
theorem witness_EventQueue_hold :
    (let e (q : List QueuedRec) : EventQueue := ⟨q, false, some 3, true⟩;
     let waits (q : List QueuedRec) := ((e q).queue.filter fun q => q.record.cls == .routine && !q.inFlight).length;
      waits [anUrgent] = 0 ∧ 8 ≤ waits (List.replicate 7 aRoutine) + 1 ∧ aRoutine.record.cls = .routine ∧
      anUrgent.record.cls = .urgent ∧
      (e (aRoutine :: List.replicate 63 anUrgent)).queue = [] ++ aRoutine :: List.replicate 63 anUrgent ∧
      (∀ x ∈ List.replicate 63 anUrgent, x.record.cls = .routine → x.inFlight = true) ∧
      aRoutine.inFlight = false ∧ ({ aRoutine with inFlight := true } : QueuedRec).inFlight = true) := by decide +kernel

/-- A third unanswered CHECK on a FAILED line, beside a FAILED line, after the third, and with none out. -/
theorem witness_Check_third :
    (let s (a b : Health) (n : Nat) (out : Option DispIx) := (lines a b true).modLine .b fun y =>
        { y with tx := some (.check 1), unanswered := n, checkOut := out };
      ((s .good .failed 2 (some 0)).line .b).health = .failed ∧ ((s .good .failed 2 (some 0)).line .b).unanswered = 2 ∧
      ((s .good .failed 2 (some 0)).line .b).checkOut = some 0 ∧ (s .good .failed 2 (some 0)).active ≠ .b ∧
      ((s .failed .good 2 (some 0)).line (StallLine.other .b)).health = .failed ∧
      ((s .failed .good 2 (some 0)).line .b).health = .good ∧
      ((s .good .good 3 none).line .b).unanswered = 3 ∧ ((s .good .good 2 none).line .b).checkOut = none ∧
      ((s .good .good 2 none).line .b).tx = some (.check 1)) := by decide +kernel

/-- The figures of a round: a held stall, a guest, the departure due at 00:40 and the bus with none; the reserve states;
and the charge level of 2700 hWh just reached. -/
theorem witness_RoundFigures :
    ((depot0 fun x => { x with fresh := .stale }).stall 0).fresh = .stale ∧ (depot.stall 0).fresh ≠ .stale ∧
    ((depot0 fun x => { x with occ := .guest, bus := none }).stall 0).occ ≠ .session ∧
    ((depot.stall 0).occ = .session ∧ (depot.stall 0).bus = some 0 ∧ depot.deps[0]? = some (dep0 .scheduled false false)) ∧
    (due (dep0 .charging false false) 1999 2399).clock = some 2399 ∧
    0 < deadlineFigure (due (dep0 .charging false false) 1999 2399) (dep0 .charging false false) 2399 ∧
    deadlineFigure (due (dep0 .conditioning true false) 1999 2400) (dep0 .conditioning true false) 2400 ≤ 0 ∧
    (dep0 .conditioning true false).state = .conditioning ∧ ({ depot with clock := none } : State).clock = none ∧
    max 0 (depot.policy.live.params.chargeTo * (depot.busEntry 0).capacity / 1000) ≤ 3000 ∧
    (reserved .active (some (anAct 0))).reserve.act = some (anAct 0) ∧ (reserved .recovery none).reserve.state = .recovery ∧
    (depot.reserve.state ≠ .active ∧ depot.reserve.state ≠ .recovery) := by decide +kernel

/-- A pass with one stall eligible and 1 kW left, none left, and none eligible; a round that ends RECOVERY and one that
does not; a round while ACTIVE. -/
theorem witness_RoundGrants :
    (let none' : Grants := Vector.replicate 48 0;
     let el (s : State) := s.parties.filter fun p => p.eager && decide (0 < s.slack s.parties none' none' p);
      el depot ≠ [] ∧ el State.reset = [] ∧ (0 : Nat) < 1 ∧ 1 ≤ 1) ∧
    (let s (n : Nat) := { depot with reserve := ⟨.recovery, none, none, []⟩, alloc := { depot.alloc with ramp := n } };
      (s 65535).computeRound.budget.softPlain ≤ (s 65535).computeRound.budget.ramp ∧
      (s 0).computeRound.budget.ramp < (s 0).computeRound.budget.softPlain) ∧
    (reserved .active (some (anAct 0))).reserve.state = .active ∧ (depot.stall 1).takesPart = false := by decide +kernel

/-- R108: a guest is handed surplus up to the guest ceiling, and the rest of the soft budget is left over. -/
theorem test_grants :
    (let r := (depot0 fun x => { x with occ := .guest, bus := none }).computeRound;
      r.charge[0] == min depot.policy.live.params.guestCeiling (depot.effPort 0) &&
        r.record.unused == some (800 - r.charge[0])) = true := by decide +kernel

/-- An activation that curtailment covers and one that it does not; a trip and a restore in each state; a stall held,
not held, protected and not; and the activation's end. -/
theorem witness_Reserve : depot.clock = some 64800 ∧
    (let cut := ((allStalls.filter fun i => (depot.stall i).occ.isPlugged && !(depot.stall i).prot).map fun i =>
      (depot.stall i).sp.charge).sum;
      cut = 0 ∧ 0 ≤ cut ∧ cut < 1) ∧
    (depot.reserve.state = .disarmed ∧ (reserved .armed none).reserve.state = .armed ∧
      (reserved .armed none).reserve.window = some 0 ∧ (reserved .recovery none).windowInForce = some 0 ∧
      ({ depot with reserve := ⟨.recovery, none, none, []⟩ } : State).windowInForce = none) ∧
    (let s (h : List (StallIx × Nat)) (p : Bool) := { reserved .active (some (anAct 0)) with
        reserve := ⟨.active, some 0, some (anAct 0), h⟩ }.modStall 0 fun x => { x with prot := p };
      (s [(0, 20), (3, 5)] true).reserve.held = [] ++ (0, 20) :: [(3, 5)] ∧ ((s [(0, 20)] true).stall 0).prot = true ∧
      (∃ e ∈ (s [(0, 20)] true).reserve.held, e.1 = 0) ∧ (¬ ∃ e ∈ (s [(3, 5), (7, 0)] false).reserve.held, e.1 = 0) ∧
      (s [(3, 5), (7, 0)] false).reserve.held.Pairwise (fun c d => c.1 < d.1) ∧ ((s [] false).stall 0).prot = false ∧
      ((s [] false).stall 0).occ.isPlugged = true ∧ ((s [] false).stall 1).occ.isPlugged = false ∧
      (s [] false).reserve.act = some (anAct 0)) := by decide +kernel

/-- A discharge of each owner and none; lendable energy that falls to 0, stands above it and rises from it; and a
discharge of 400 kW above the bus's limit of 100 kW. -/
theorem witness_Discharges :
    (let s (o : Option Owner) := depot0 fun x => { x with owner := o, discharge := 40, handed := 40 };
      ((s none).stall 0).owner = none ∧ ((s (some .reserve)).stall 0).owner = some .reserve ∧
      ((s (some .storage)).stall 0).owner = some .storage) ∧
    (let y : Stall := { depot.stall 0 with owner := none, discharge := 0, handed := 0 };
      y.composed = (depot.stall 0).sp ∧
      y.composed ≠ ((depot0 fun x => { x with handed := 40, sp := ⟨0, 0, 40⟩ }).stall 0).sp) ∧
    (depot.lendableNow 0 = 2300 ∧ (depot.bus 0).lendable = 0 ∧ (depot.bus 0).stall = some 0 ∧ (depot.bus 1).stall = none ∧
      (lending.bus 0).lendable = 900 ∧ 0 < lending.lendableNow 0 ∧
      (depot0 fun x => { x with prot := true }).lendableNow 0 = 0) ∧
    ([0, 1] : List DispIx).Pairwise (· < ·) ∧
    (let s (o : Owner) := (depot0 fun x => { x with owner := some o, discharge := 400, handed := 400 });
      (s .storage).overLimit [0, 1] = [(0, 100)] ∧ (s .reserve).overLimit [0] = [(0, 100)] ∧
        (s .reserve).overLimit [1] = []) := by decide +kernel

/-! ## Witnesses: resets, outcomes, ratings and hand-offs -/

/-- A LINE TEST in progress at a reset, on one line and not on the other; an address listed and none listed. -/
theorem witness_Resets : (testing 3 none false).test = some ⟨.b, .good, 0, 3, 0, false⟩ ∧ StallLine.b ≠ .a ∧
    depot.test = none ∧ (depot.pres 0).presence ≠ .unlisted ∧ (∀ d, (State.reset.pres d).presence = .unlisted) ∧
    (depot.plant.liveEmpty = false ∧ depot.plant.live.dispensers[0].listed = true) ∧
    (let s := { depot with plant := { depot.plant with live := PlantSet.empty } };
      s.plant.liveEmpty = false ∧ s.plant.live.dispensers.any (·.listed) = false) := by decide +kernel

/-- A record reached in each outcome of R80, and one that vanishes, or is kept, at a SCHEDULE swap (R84). -/
theorem witness_Outcomes :
    (depot.deps[0]? = some (dep0 .scheduled false false) ∧ depot.rosterIx 2115 = some 0 ∧ (depot.bus 0).stall = some 0 ∧
      (dep0 .disabled false false).state.isOpen = false ∧ (depot.bus 1).stall = none) ∧
    (∀ e ∈ depot.schedule.live.toList, ¬ (e.fleet ≠ 0 ∧ e.fleet = 2115 ∧ e.minute = 40)) ∧
    (let live := depot.schedule.live.set 0 ⟨2115, 40, 1700, 0, 0, 1⟩;
      ∃ e ∈ live.toList, e.fleet ≠ 0 ∧ e.fleet = 2115 ∧ e.minute = 40) := by decide +kernel

theorem witness_Outcomes_active : ActiveAt depot 0 0 (dep0 .scheduled false false) :=
  active_due .scheduled false false 2600 64800 rfl

/-- R84: the departure of the bus plugged at stall 0 vanishes from the list, with its event. -/
theorem test_removed : (depot.scheduleSwapped.records.map fun r => (r.kind, r.subject, r.param)) =
    [(.departureRemoved, .stall 0, 0)] ∧ depot.scheduleSwapped.deps = [] := by decide +kernel

/-- The permission changes at a stall in SESSION, and at a guest's. -/
theorem witness_Permission : (ruled.stall 0).lend ≠ decide (1#8 = 0#8) ∧ (ruled.stall 0).occ = .session ∧
    (ruled.stall 0).bus = some 0 ∧
    ((ruled.modStall 0 fun x => { x with occ := .guest, bus := none }).stall 0).occ ≠ .session := by decide +kernel

/-- R121, R126: with the permission withdrawn the energy bus 0 lends is 0. -/
theorem test_permission : leaves (.setpoint 9 0 40 1) { lending with superv := ⟨true, false, 0, 30⟩ }
    (fun t => (t.bus 0).lendable == 0 && (t.stall 0).lend == false) = true := by decide +kernel

/-- R32, R35: the test of line B ends while line A is FAILED and B was GOOD, and the roles swap. -/
theorem test_lineTestEnd : leaves .testFrameTimeout
    { testing 7 none false with lineA := { depot.lineA with health := .failed } } (fun t => t.active == .b) = true := by
  decide +kernel

/-- Line B GOOD and STANDBY, and a source that is no dispenser. -/
theorem witness_Standby : depot.active ≠ .b ∧ (depot.line .b).health = .good ∧ (depot.line .b).rx.state ≠ .brk ∧
    dispAt 0 = none ∧ dispAt 25 = none := by decide +kernel

/-- 12.4, 12.5: bodies written out octet by octet. -/
theorem test_bodies :
    telemetryRecords [1, 0x08, 0x43, 0x02, 0xEE, 0xFF, 0xE2, 0x00, 0x01, 0x86, 0xA0, 7] =
      some [(0, ⟨true, 2115, 750, -30, 100000, 7⟩)] ∧
    reportOf [2, 0x01, 0x2C, 0, 150, 0, 140, 1] = some ⟨2, 300, 150, 140, true⟩ ∧
    sampleOf [0xFF, 0xF6, 0, 0, 0xC3, 0x50, 0x01, 0x02] = some ⟨-10, 50000, 258⟩ := by decide +kernel

/-- The first record of bus 0 at stall 1, which holds another bus, while stall 0 is silent; a jump of the counter, and
an estimate that is UNKNOWN. -/
theorem witness_FirstRecord :
    (let s := (depot0 fun x => { x with fresh := .stale }).modStall 1 fun x => { x with
        inService := true, occ := .session, bus := some 5 };
      (s.stall 1).inService = true ∧ (s.stall 1).bus ≠ some 0 ∧ s.rosterIx 2115 = some 0 ∧ (s.bus 0).stall = some 0 ∧
      (0 : StallIx) ≠ 1 ∧ (s.stall 0).fresh ≠ .fresh ∧ (s.stall 1).bus = some 5) ∧
    ((depot.stall 0).bus = some 0 ∧ (depot.stall 0).baseline = some 1000 ∧
      100 * (depot.busEntry 0).capacity < (301001 - 1000 : Int).natAbs) ∧
    (State.reset.bus 0).energy = none := by decide +kernel

/-- A second miss at an address in each presence, the probe with a next address and without, and reports that agree
with the live entry and do not, the first of all among them. -/
theorem witness_SecondMiss :
    (let s (x : Presence) := { probing 1 with presence := (probing 1).presence.set 0 ⟨x, 1, none⟩ };
      ∀ x, (s x).window = some (.census 0) ∧ ((s x).pres 0).miss ≠ 0 ∧ ((s x).pres 0).presence = x) ∧
    ((probing 1).pres 1).presence ≠ .unlisted ∧ (probing 1).census.probe = some 0 ∧
    (let s := { probing 1 with census := { (probing 1).census with probe := some 23 } };
      ∀ c : DispIx, ¬ ∀ p, s.census.probe = some p → p < c) ∧
    (let e := depot.plant.live.dispensers[0];
      (e.ports = 2 ∧ e.cabinet = 300 ∧ e.port0 = 150 ∧ e.port1 = 150 ∧ e.discharge = true) ∧ (1 : Nat) ≠ e.ports ∧
      min 250 140 ≠ e.port1) ∧
    (let s := { probing 0 with presence := (probing 0).presence.set 1 ⟨.unprobed, 0, none⟩ }; s.presentCount = 0) := by
  refine ⟨fun x => ?_, by decide +kernel⟩
  cases x <;> decide +kernel

/-- R5, R9, R10: a report with 140 kW at port 1 is a mismatch of code 3, and a second miss raises DISPENSER_ABSENT. -/
theorem test_census :
    leaves (.censusReport .a 0 1 0 [2, 0x01, 0x2C, 0, 150, 0, 140, 1]) (probing 0) (fun t =>
      (t.records.map fun r => (r.kind, r.subject, r.param)) == [(.dispenserMismatch, .dispenser 0, 3)] &&
        t.census.probe == some 1) = true ∧
    leaves .censusWindowExpiry (probing 1) (fun t => t.records.any (fun r => r.kind == .dispenserAbsent) &&
      (t.stall 0).inService == false && (t.stall 0).occ == .vacant && t.census.probe == some 1) = true := by
  decide +kernel

/-- A stall that leaves service with a bus, without one and unplugged; what it hands on in each of its three forms; and
effective ratings from a report, and with none. -/
theorem witness_Ratings :
    ((depot.pres 0).presence = .present ∧ (depot.pres 0).report = some ⟨2, 300, 150, 150, true⟩ ∧
      (depot.pres 2).presence ≠ .present) ∧
    ((depot.stall 0).bus = some 0 ∧ (depot.stall 0).occ.isPlugged = true ∧ (depot.stall 1).bus = none ∧
      (depot.stall 1).occ.isPlugged = false ∧ ((depot0 fun x => { x with occ := .guest, bus := none }).stall 0).bus = none) ∧
    (let h (began unplugged : Bool) : Handed := ⟨0, [], [], [], began, unplugged⟩;
      (h false false).began = false ∧ (h true false).began = true ∧ (h false true).unplugged = true) := by decide +kernel

/-- R3, R4: a report below the table lowers the ratings, port 1 of a report of one port has none, and its stall no
service. -/
theorem test_ratings :
    (let s := { depot with presence := depot.presence.set 0 ⟨.present, 0, some ⟨1, 280, 120, 120, false⟩⟩ };
      s.eff 0 = ⟨1, 280, 120, 0, false⟩ ∧ s.serviceOf 0 = true ∧ s.serviceOf 1 = false) := by decide +kernel

theorem witness_ActivationMinutes_limit : (reserved .active (some (anAct 1800))).reserve.state = .active ∧
    (reserved .active (some (anAct 1800))).reserve.act = some (anAct 1800) ∧
    60 * (anAct 1800).window.maxMinutes ≤ (anAct 1800).elapsed := by decide +kernel

/-- A bus that a FLEET swap takes from its stall, and one at none. -/
theorem witness_LoseBus : (depot.bus 0).stall = some 0 ∧ (depot.bus 1).stall = none := by decide +kernel

/-- A kind that is always URGENT, one that is so by its parameter, one by the table, and a generation above 32767. -/
theorem witness_Raise : EventKind.plug ≠ .committed ∧ (EventKind.lineSwitch = .lineSwitch ∧ (0 : Int) = 0) ∧
    (0 : Int) ≤ 40000 ∧ (40000 : Int) < 65536 ∧ ¬ (40000 : Int) < 32768 ∧
    depot.policy.live.classes.toList[EventKind.plug.code]? = some .routine := by decide +kernel

/-- R98: protected demands in turn up to Bu, and the proportional share of the rest with its single kilowatts. -/
theorem test_fit_steps : fit 100 60 [⟨true, 30⟩, ⟨false, 10⟩, ⟨true, 90⟩] = [30, 0, 70] ∧
    fit 100 50 [⟨true, 30⟩, ⟨false, 10⟩, ⟨false, 0⟩, ⟨false, 20⟩, ⟨false, 11⟩] = [30, 5, 0, 10, 5] := by decide +kernel

/-- R32, R178: a POLICY swap with line A FAILED swaps the roles, and 8 waiting routine records release the hold; without
either it does neither. -/
theorem test_policySwapped :
    (let t := (lines .failed .good true).policySwapped 1080; t.active = .b ∧ t.events.released = false) ∧
    (let s := { depot with events := { depot.events with queue := List.replicate 8 aRoutine } };
      (s.policySwapped 1080).active = .a ∧ (s.policySwapped 1080).events.released = true) := by decide +kernel

/-- R6, R11: a PLANT swap to a set that lists nothing ends its census at once, with a count of 0. -/
theorem test_plantSwapped :
    (let t := { depot with plant := { depot.plant with live := PlantSet.empty } }.plantSwapped;
      (t.records.map fun r => (r.kind, r.param)) = [(.censusDone, 0)] ∧ t.census.running = false ∧
        (t.stall 0).occ = .vacant ∧ (t.bus 0).carried = true) := by decide +kernel

/-- R24, R29: past the last PRESENT address the rotation wraps to the lowest; and a position with none above it. -/
theorem test_wrap : depot.nextPresent (some 5) = some 0 ∧ depot.nextPresent (some 1) = some 0 ∧
    ∀ c, (depot.pres c).presence = .present → c ≤ (5 : DispIx) := by decide +kernel

/-- R43, R51: outside SESSION a record moves the baseline alone; here a number not in the roster. -/
theorem test_baseline :
    (let s := depot0 fun x => { x with occ := .guest, bus := none, fleetNo := some 9 };
     let u := s.portRecord 0 { aRecord 1001 70 with fleet := 9 };
      (s.stall 0).inService = true ∧ (s.stall 0).bus = none ∧ (u.stall 0).occ = .guest ∧ (u.stall 0).bus = none ∧
        (u.stall 0).baseline = some 70 ∧ (u.stall 0).residue = 0) := by decide +kernel

/-- The meter FRESH with storage in each of its states, a stall discharging for it. -/
def metering (x : StorageState) : State := { depot0 fun y => { y with owner := some .storage, discharge := 40, handed := 40
                                                                      controller := .storage, sp := ⟨0, 0, 40⟩ } with
  site := { depot.site with fresh := true }, storage := ⟨x, some 60, 40, 20⟩ }

theorem witness_Staleness : ∀ x, (metering x).site.fresh = true ∧ (metering x).storage.state = x := fun _ => ⟨rfl, rfl⟩

/-- R60, R132: gone STALE while SHAVING, the discharge at stall 0 ends and SHAVE_END is raised with cause 2. -/
theorem test_staleness : leaves .meterStalenessExpiry (metering .shaving) (fun t =>
    (t.stall 0).owner == none && (t.stall 0).sp.dis == 0 && (t.stall 0).controller == .allocator &&
      t.storage.state == .inhibited && t.storage.target == none &&
      (t.records.map fun r => (r.kind, r.param)) == [(.meterStale, 0), (.shaveEnd, 2)]) = true := by decide +kernel

/-- R111, R124, R137, R181: a soft reset of the depot, its meter FRESH and storage SHAVING. -/
theorem test_softReset : leaves .softReset (metering .shaving) (fun t => t.site.fresh == false &&
    t.storage == ⟨.inhibited, none, 0, 0⟩ && (t.stall 0).owner == none && (t.stall 0).controller == .allocator &&
    t.events.hold == none && t.events.overflow == false && t.alloc.remaining == 2) = true := by decide +kernel

/-- R63's table of clocks: slot 10 at 05:29:59 and slot 11 at 05:30:00, the entries of slots 10 and 11 being 210 and 211;
and the feeder limit with the clock UNSET, and with the live GRID empty. -/
theorem test_importCeiling :
    (let grid : GridSet := { GridSet.empty with ceilings := (GridSet.empty.ceilings.set 10 210).set 11 211 };
     let s (clock : Option Nat) (e : Bool) : State := { depot with
       clock := clock, grid := { depot.grid with live := grid, liveEmpty := e } };
      (s (some 19799) false).importCeiling = 210 ∧ (s (some 19800) false).importCeiling = 211 ∧
        (s none false).importCeiling = 1000 ∧ (s (some 19800) true).importCeiling = 1000) := by decide +kernel

/-- R58: a FRESH stall adds its measured power and a STALE one its setpoints, a discharge less; an UNREACHABLE one nothing.
R59: the load in use, FRESH and STALE, with and without a sample. -/
theorem test_fleetPower :
    (let s (f : Freshness) : State := ({ depot0 fun x => { x with fresh := f, power := -130, sp := ⟨0, 5, 40⟩ } with
       site := { depot.site with fresh := false, lastLoad := some 80 } });
     let load (f : Bool) (l : Option Nat) : Nat := ({ depot with site := { depot.site with fresh := f, lastLoad := l } }).loadInUse;
      (s .fresh).fleetPower = (s .none).fleetPower - 130 ∧ (s .stale).fleetPower = (s .none).fleetPower - 35 ∧
        (s .unreachable).fleetPower = (s .none).fleetPower ∧
        load true (some 80) = 80 ∧ load false (some 80) = 200 ∧ load false (some 300) = 300 ∧ load false none = 200) := by
  decide +kernel

/-- R128: no bus, no capacity; and with 60 kW of the other owner's discharge at its neighbour, a stall of the 300 kW
cabinet has 240 kW of slack. -/
theorem test_slack : (lending.disCapacity 0 = 100 ∧ (lending.stall 0).bus = some 0 ∧ (lending.stall 47).bus = none ∧
      lending.disCapacity 47 = 0 ∧ lending.lendableAt 47 = 0) ∧
    (let s := lending.modStall 1 fun x => { x with owner := some .storage, discharge := 60 };
      s.cabinetSlack .reserve [] 0 = 240 ∧ s.cabinetSlack .storage [(1, 60)] 0 = 240) := by decide +kernel

/-- R170, R176: the defaults, and the classes of STORAGE_LIMIT and METER_STALE. -/
theorem test_defaults : State.reset.policy.live.classes.toList[44]? = some .routine ∧
    State.reset.policy.live.classes.toList[28]? = some .urgent ∧ State.reset.policy.draft = State.reset.policy.live := by
  decide +kernel

end Sys2Proof.Tests
end

-- ==== Lendable energy and the discharge spread ====
section
/-! PROOF. The lendable energy of a bus (R125, R126), and the discharge spread (R128 to R130). -/

namespace Sys2Proof.Machine

open Sys2Proof

/-! ## What the Discharge Coordinator's operations leave of buses and departures -/

/-- The bus records (3.2) and the departures (05) are as they were. -/
structure SameRoster (s t : State) : Prop where
  buses : t.buses = s.buses
  deps  : t.deps = s.deps

theorem SameRoster.refl (s : State) : SameRoster s s := ⟨rfl, rfl⟩

theorem SameRoster.trans {s t u : State} (h : SameRoster s t) (k : SameRoster t u) : SameRoster s u :=
  ⟨k.buses.trans h.buses, k.deps.trans h.deps⟩

theorem SameRoster.each {α : Type} (f : State → α → State) (hf : ∀ s a, SameRoster s (f s a)) :
    ∀ (is : List α) (s : State), SameRoster s (s.each is f)
  | [], s => .refl s
  | a :: is, s => (hf s a).trans (SameRoster.each f hf is (f s a))

theorem SameRoster.bus {s t : State} (h : SameRoster s t) (b : BusIx) : t.bus b = s.bus b := by
  unfold State.bus; rw [h.buses]

theorem raise_sameRoster (s : State) (k : EventKind) (x : Subject) (p : Int) :
    SameRoster s (s.raise k x p) := ⟨rfl, rfl⟩

theorem setStorage_sameRoster (s : State) (x : StorageState) : SameRoster s (s.setStorage x) := ⟨rfl, rfl⟩

theorem modAct_sameRoster (s : State) (f : Activation → Activation) : SameRoster s (s.modAct f) := ⟨rfl, rfl⟩

theorem setStall_sameRoster (s : State) (i : StallIx) (x : Stall) : SameRoster s (s.setStall i x) := ⟨rfl, rfl⟩

theorem recompute_sameRoster (s : State) (i : StallIx) (m : Bool) : SameRoster s (s.recompute i m) := by
  unfold State.recompute
  dsimp only
  split <;> exact ⟨rfl, rfl⟩

theorem handDischarge_sameRoster (s : State) (i : StallIx) (e : Option Owner) : SameRoster s (s.handDischarge i e) := by
  unfold State.handDischarge
  exact (setStall_sameRoster s i _).trans (recompute_sameRoster _ i _)

theorem endDischarge_sameRoster (s : State) (i : StallIx) : SameRoster s (s.endDischarge i) := by
  unfold State.endDischarge
  exact (setStall_sameRoster s i _).trans (handDischarge_sameRoster _ i _)

theorem setDischarge_sameRoster (s : State) (i : StallIx) (o : Owner) (n : Nat) :
    SameRoster s (s.setDischarge i o n) := by
  unfold State.setDischarge
  exact (setStall_sameRoster s i _).trans (handDischarge_sameRoster _ i _)

theorem endOwned_sameRoster (s : State) (o : Owner) : SameRoster s (s.endOwned o) := by
  refine SameRoster.each _ (fun s i => ?_) allStalls s
  split
  · exact endDischarge_sameRoster s i
  · exact .refl s

theorem applySpread_sameRoster (s : State) (o : Owner) (ps : List (StallIx × Nat)) :
    SameRoster s (s.applySpread o ps) := by
  refine .trans (.each _ (fun s i => ?_) allStalls s) (.each _ (fun s p => ?_) ps _)
  · split
    · exact endDischarge_sameRoster s i
    · exact .refl s
  · split
    · exact .refl s
    · exact setDischarge_sameRoster s p.1 o p.2

theorem spread_sameRoster (s : State) (o : Owner) (x : Nat) : SameRoster s (s.spread o x).1 :=
  applySpread_sameRoster s o _

theorem reserveSpread_sameRoster (s : State) : SameRoster s s.reserveSpread := by
  unfold State.reserveSpread
  split
  · dsimp only
    split
    · exact ((spread_sameRoster s _ _).trans (modAct_sameRoster _ _)).trans (raise_sameRoster _ _ _ _)
    · exact (spread_sameRoster s _ _).trans (modAct_sameRoster _ _)
  · exact .refl s

theorem storageSpread_sameRoster (s : State) (x : Nat) : SameRoster s (s.storageSpread x) :=
  (spread_sameRoster s .storage x).trans ⟨rfl, rfl⟩

theorem respreadStorage_sameRoster (s : State) (x : Nat) : SameRoster s (s.respreadStorage x) := by
  have h := storageSpread_sameRoster s x
  unfold State.respreadStorage
  dsimp only
  split
  · exact (h.trans (setStorage_sameRoster _ _)).trans (raise_sameRoster _ _ _ _)
  · exact h

theorem testHoldback_sameRoster (s : State) : SameRoster s s.testHoldback := by
  unfold State.testHoldback
  split
  · exact ((endOwned_sameRoster s _).trans (setStorage_sameRoster _ _)).trans (raise_sameRoster _ _ _ _)
  · exact .refl s

theorem storageEnded_sameRoster (s : State) : SameRoster s s.storageEnded := by
  have h := testHoldback_sameRoster s
  unfold State.storageEnded
  dsimp only
  split
  · exact h.trans (respreadStorage_sameRoster _ _)
  · exact h

theorem dropDischarge_sameRoster (s : State) (i : StallIx) : SameRoster s (s.dropDischarge i) := by
  unfold State.dropDischarge
  split
  · exact .refl s
  · exact (endDischarge_sameRoster s i).trans (reserveSpread_sameRoster _)
  · exact (endDischarge_sameRoster s i).trans (storageEnded_sameRoster _)

/-- Past the figure it stores, a re-evaluation leaves the buses as they were (R126, R127). -/
theorem reeval_sameRoster (s : State) (b : BusIx) :
    SameRoster (s.modBus b fun x => { x with lendable := s.lendableNow b }) (s.reeval b) := by
  unfold State.reeval
  dsimp only
  generalize s.modBus b (fun x => { x with lendable := s.lendableNow b }) = stored
  have tested : ∀ w, SameRoster stored w →
      SameRoster stored (if s.lendableNow b = (s.bus b).lendable then w else w.testHoldback) := by
    intro w h
    split
    · exact h
    · exact h.trans (testHoldback_sameRoster w)
  refine tested _ ?_
  split
  · exact .refl stored
  · split
    · exact dropDischarge_sameRoster stored _
    · split
      · exact reserveSpread_sameRoster stored
      · exact .refl stored

/-! ## Lendable energy (R125) -/

/-- The conditions of R125 on a bus, its stall and its dispenser, all but a known estimate. -/
def State.MayLend (s : State) (b : BusIx) : Prop :=
  ∃ i : StallIx, (s.bus b).stall = some i ∧ (s.stall i).occ = .session ∧ (s.stall i).inService = true ∧
    (s.stall i).fresh = .fresh ∧ (s.eff (dispOf i)).discharge = true ∧ (s.busEntry b).enrolled ≠ 0#8 ∧
    (s.stall i).lend = true ∧ (s.stall i).prot = false

theorem lendableNow_of_mayLend {s : State} {b : BusIx} {e : Nat} (h : s.MayLend b) (he : (s.bus b).energy = some e) :
    s.lendableNow b = e - s.protectedEnergy b := by
  obtain ⟨i, hi, hocc, hserv, hfresh, heff, henr, hlend, hprot⟩ := h
  simp [State.lendableNow, hi, he, hocc, hserv, hfresh, heff, henr, hlend, hprot]

theorem lendableNow_eq_zero {s : State} {b : BusIx} (h : ¬ s.MayLend b ∨ (s.bus b).energy = none) :
    s.lendableNow b = 0 := by
  unfold State.lendableNow
  split
  · next i e hi he =>
    refine if_neg fun ⟨hocc, hserv, hfresh, heff, henr, hlend, hprot⟩ => ?_
    obtain h | h := h
    · exact h ⟨i, hi, hocc, hserv, hfresh, heff, henr, hlend, by simpa using hprot⟩
    · simp [he] at h
  · rfl

/-- The active departure is the record that stands as one in the list (R74). -/
theorem activeDep_iff (s : State) (b : BusIx) (d : Departure) :
    s.activeDep b = some d ↔ ∃ k, s.deps[k]? = some d ∧ ActiveAt s b k d := by
  unfold State.activeDep
  rw [Option.bind_eq_some_iff]
  refine exists_congr fun k => ?_
  rw [and_comm]
  exact and_congr_right fun hk => (activeAt_iff s b k d hk).symm

theorem protectedEnergy_of_none {s : State} {b : BusIx} (h : s.activeDep b = none) :
    s.protectedEnergy b = s.floorEnergy b := by
  simp [State.protectedEnergy, h]

theorem protectedEnergy_of_unset {s : State} {b : BusIx} {d : Departure} (h : s.activeDep b = some d)
    (hc : s.clock = none) : s.protectedEnergy b = s.targetOf b d := by
  simp [State.protectedEnergy, h, State.deadlineOf, State.curMinute, hc]

/-- With the clock set, the deadline is compared with the protection horizon (R125). -/
theorem protectedEnergy_of_clock {s : State} {b : BusIx} {d : Departure} {n : Nat} (h : s.activeDep b = some d)
    (hc : s.clock = some n) : s.protectedEnergy b =
      if (s.params.protectHorizon : Int) < deadlineFigure s d n then s.floorEnergy b else s.targetOf b d := by
  simp only [State.protectedEnergy, h, State.deadlineOf, State.curMinute, hc, Option.map_some]
  rfl

/-- Settles O49: the table of R125 figure by figure, and what a re-evaluation stores. -/
theorem lendableEnergyIsEvaluated : Obligations.LendableEnergyIsEvaluated := by
  intro s b
  refine ⟨lendableNow_eq_zero, fun e => lendableNow_of_mayLend, activeDep_iff s b, protectedEnergy_of_none, fun d hd =>
    ⟨protectedEnergy_of_unset hd, fun n hn => ⟨fun far => ?_, fun near => ?_⟩⟩, ?_, fun c hc => ?_⟩
  · exact (protectedEnergy_of_clock hd hn).trans (if_pos far)
  · exact (protectedEnergy_of_clock hd hn).trans (if_neg (Int.not_lt.2 near))
  · rw [(reeval_sameRoster s b).bus, State.bus_modBus, if_pos rfl]
  · rw [(reeval_sameRoster s b).bus, State.bus_modBus, if_neg hc.symm]

/-! ## The candidates of a spread (R129) -/

/-- Ascending by the key, and at equal keys as `T` has them. -/
def KeyThen {α : Type} (key : α → Int) (T : α → α → Prop) (x y : α) : Prop := key x < key y ∨ (key x = key y ∧ T x y)

theorem insertByKey_pairwise {α : Type} (key : α → Int) (T : α → α → Prop) (x : α) : ∀ l : List α, (∀ y ∈ l, T x y) →
    l.Pairwise (KeyThen key T) → (insertByKey key x l).Pairwise (KeyThen key T)
  | [], _, _ => List.pairwise_singleton _ x
  | y :: l, hx, h => by
    obtain ⟨hy, hl⟩ := List.pairwise_cons.1 h
    unfold insertByKey
    split
    · next le =>
      refine List.pairwise_cons.2 ⟨fun z hz => ?_, h⟩
      have above : key y ≤ key z := by
        obtain rfl | hz := List.mem_cons.1 hz
        · exact Int.le_refl _
        · obtain lt | ⟨eq, -⟩ := hy z hz
          · exact Int.le_of_lt lt
          · exact Int.le_of_eq eq
      obtain lt | eq := Int.lt_or_eq_of_le (Int.le_trans le above)
      · exact .inl lt
      · exact .inr ⟨eq, hx z hz⟩
    · next gt =>
      have ih := insertByKey_pairwise key T x l (fun z hz => hx z (List.mem_cons_of_mem y hz)) hl
      refine List.pairwise_cons.2 ⟨fun z hz => ?_, ih⟩
      obtain rfl | hz := List.mem_cons.1 ((insertByKey_perm key x l).mem_iff.1 hz)
      · exact .inl (Int.not_le.1 gt)
      · exact hy z hz

/-- Sorting by a key keeps the order of elements with equal keys. -/
theorem sortByKey_pairwise {α : Type} (key : α → Int) (T : α → α → Prop) :
    ∀ l : List α, l.Pairwise T → (sortByKey key l).Pairwise (KeyThen key T)
  | [], _ => List.Pairwise.nil
  | x :: l, h => by
    obtain ⟨hx, hl⟩ := List.pairwise_cons.1 h
    exact insertByKey_pairwise key T x _ (fun y hy => hx y ((sortByKey_perm key l).mem_iff.1 hy))
      (sortByKey_pairwise key T l hl)

theorem mem_candidates (s : State) (o : Owner) (i : StallIx) : i ∈ s.candidates o ↔ 0 < s.lendableAt i ∧
    ((s.stall i).owner = none ∨ (s.stall i).owner = some o) ∧ ¬ (o = .storage ∧ (s.stall i).controller = .reserve) := by
  have barred : (!(o == .storage && (s.stall i).controller == .reserve)) = true ↔
      ¬ (o = .storage ∧ (s.stall i).controller = .reserve) := by
    rw [Bool.not_eq_true', ← Bool.not_eq_true, Bool.and_eq_true, beq_iff_eq, beq_iff_eq]
  unfold State.candidates
  rw [(sortByKey_perm _ _).mem_iff, List.mem_filter, Bool.and_eq_true, barred]
  simp only [allStalls, List.mem_finRange, true_and, Bool.and_eq_true, Bool.or_eq_true, decide_eq_true_eq, beq_iff_eq,
    and_assoc]

theorem candidates_pairwise (s : State) (o : Owner) : (s.candidates o).Pairwise fun i j =>
    s.lendableAt j < s.lendableAt i ∨ (s.lendableAt i = s.lendableAt j ∧ i < j) := by
  have ascending : allStalls.Pairwise (· < ·) := List.pairwise_lt_finRange 48
  refine (sortByKey_pairwise _ _ _ (ascending.filter _)).imp fun {i j} h => ?_
  have h : -(s.lendableAt i : Int) < -s.lendableAt j ∨ (-(s.lendableAt i : Int) = -s.lendableAt j ∧ i < j) := h
  obtain lt | ⟨eq, lt⟩ := h
  · exact .inl (by omega)
  · exact .inr ⟨by omega, lt⟩

/-! ## The limits a spread keeps to (R128) -/

theorem lendableAt_of_none {s : State} {i : StallIx} (h : (s.stall i).bus = none) : s.lendableAt i = 0 := by
  simp [State.lendableAt, h]

theorem lendableAt_of_some {s : State} {i : StallIx} {b : BusIx} (h : (s.stall i).bus = some b) :
    s.lendableAt i = (s.bus b).lendable := by
  simp [State.lendableAt, h]

theorem disCapacity_of_none {s : State} {i : StallIx} (h : (s.stall i).bus = none) : s.disCapacity i = 0 := by
  simp [State.disCapacity, h]

theorem disCapacity_of_some {s : State} {i : StallIx} {b : BusIx} (h : (s.stall i).bus = some b) :
    s.disCapacity i = min (s.busEntry b).discharge (s.effPort i) := by
  simp [State.disCapacity, h]

/-- Core Lean has no lemma for a sum whose terms are 0 where a test fails. -/
theorem sum_map_ite_filter {α : Type} (p : α → Bool) (f : α → Nat) :
    ∀ l : List α, (l.map fun a => if p a then f a else 0).sum = ((l.filter p).map f).sum
  | [] => rfl
  | a :: l => by
    have ih := sum_map_ite_filter p f l
    by_cases h : p a = true
    · rw [List.filter_cons_of_pos h, List.map_cons, List.map_cons, List.sum_cons, List.sum_cons, if_pos h, ih]
    · rw [List.filter_cons_of_neg h, List.map_cons, List.sum_cons, if_neg h, ih, Nat.zero_add]

/-- The discharges of the other owner at a dispenser, over the stalls that it has. -/
theorem otherOwnerSum_eq (s : State) (o : Owner) (d : DispIx) : s.otherOwnerSum o d =
    (([stallAt d 0, stallAt d 1].filter fun i => (s.stall i).owner != none && (s.stall i).owner != some o).map
      fun i => (s.stall i).discharge).sum := by
  rw [← sum_map_ite_filter]
  refine congrArg List.sum (List.map_congr_left fun i _ => ?_)
  cases (s.stall i).owner with
  | none => rfl
  | some p => simp only [Option.isSome_some, true_and, ne_eq, Bool.and_eq_true, bne_iff_ne, reduceCtorEq,
      not_false_eq_true, Option.some.injEq]

@[simp] theorem placedAt_nil (d : DispIx) : placedAt [] d = 0 := rfl

/-- One more placement adds to its own dispenser alone. -/
theorem placedAt_snoc (ps : List (StallIx × Nat)) (i : StallIx) (kw : Nat) (d : DispIx) :
    placedAt (ps ++ [(i, kw)]) d = placedAt ps d + if dispOf i = d then kw else 0 := by
  by_cases h : dispOf i = d <;> simp [placedAt, h]

/-! ## The visit of the candidates (R129 step 3) -/

/-- The placements made so far in a visit with target `x`, and what remains of the target. -/
structure Placing (s : State) (o : Owner) (x : Nat) (ps : List (StallIx × Nat)) (left : Nat) : Prop where
  inTurn  : ∀ a i kw b, ps = a ++ (i, kw) :: b →
    kw = min (min (s.disCapacity i) (s.cabinetSlack o a (dispOf i))) (x - (a.map (·.2)).sum)
  total   : (ps.map (·.2)).sum + left = x
  cabinet : ∀ d, placedAt ps d ≤ (s.eff d).cabinet - s.otherOwnerSum o d

theorem Placing.nil (s : State) (o : Owner) (x : Nat) : Placing s o x [] x := by
  constructor <;> simp

/-- The next candidate takes the least of its capacity, its cabinet's slack and what remains. -/
theorem Placing.snoc {s : State} {o : Owner} {x left : Nat} {ps : List (StallIx × Nat)} (h : Placing s o x ps left)
    (i : StallIx) : let kw := min (min (s.disCapacity i) (s.cabinetSlack o ps (dispOf i))) left
    Placing s o x (ps ++ [(i, kw)]) (left - kw) := by
  intro kw
  have fits : kw ≤ left := Nat.min_le_right ..
  have slack : kw ≤ s.cabinetSlack o ps (dispOf i) := Nat.le_trans (Nat.min_le_left ..) (Nat.min_le_right ..)
  have remains : left = x - (ps.map (·.2)).sum := by have := h.total; omega
  refine ⟨fun a j n b e => ?_, ?_, fun d => ?_⟩
  · obtain rfl | ⟨b, q, rfl⟩ := b.eq_nil_or_concat
    · obtain ⟨rfl, last⟩ := List.append_inj' e rfl
      obtain ⟨rfl, rfl⟩ := Prod.mk.inj (List.cons.inj last).1
      rw [← remains]
    · rw [List.concat_eq_append, ← List.cons_append, ← List.append_assoc] at e
      exact h.inTurn a j n b (List.append_inj' e rfl).1
  · have := h.total
    simp only [List.map_append, List.sum_append, List.map_cons, List.map_nil, List.sum_cons, List.sum_nil]
    omega
  · have := h.cabinet d
    rw [placedAt_snoc]
    split
    · next e =>
      subst e
      unfold State.cabinetSlack at slack
      omega
    · exact this

theorem placeAll_placing (s : State) (o : Owner) (x : Nat) : ∀ l done left, Placing s o x done left →
    Placing s o x (s.placeAll o done left l).1 (s.placeAll o done left l).2
  | [], _, _, h => h
  | i :: l, _, _, h => placeAll_placing s o x l _ _ (h.snoc i)

/-- A spread's placements are of distinct stalls. -/
theorem placements_nodup (s : State) (o : Owner) (x : Nat) :
    ((s.placeAll o [] x (s.candidates o)).1.map (·.1)).Nodup := by
  rw [placeAll_keys]
  exact candidates_nodup s o

/-- One amount stands for each stall. -/
theorem amount_unique {i : StallIx} {a b : Nat} : ∀ {ps : List (StallIx × Nat)}, (ps.map (·.1)).Nodup →
    (i, a) ∈ ps → (i, b) ∈ ps → a = b
  | p :: ps, nd, ha, hb => by
    obtain ⟨hp, nd⟩ := List.nodup_cons.1 nd
    have other : ∀ n, (i, n) ∈ ps → p.1 ≠ i := fun n hn e => hp (List.mem_map.2 ⟨(i, n), hn, e.symm⟩)
    obtain rfl | inA := List.mem_cons.1 ha
    · obtain e | inB := List.mem_cons.1 hb
      · exact (Prod.mk.inj e).2.symm
      · exact absurd rfl (other b inB)
    · obtain rfl | inB := List.mem_cons.1 hb
      · exact absurd rfl (other a inA)
      · exact amount_unique nd inA inB

/-! ## The result applied (R130) -/

/-- Of the stalls at which discharges end in turn, each is left with no owner and discharge 0. -/
theorem foldl_endDischarge_owner (l : List StallIx) (s : State) (i : StallIx) (h : i ∈ l) :
    ((l.foldl State.endDischarge s).stall i).owner = none ∧ ((l.foldl State.endDischarge s).stall i).discharge = 0 := by
  induction l generalizing s with
  | nil => cases h
  | cons a l ih =>
    by_cases hl : i ∈ l
    · rw [List.foldl_cons]
      exact ih _ hl
    · obtain rfl : i = a := (List.mem_cons.1 h).resolve_right hl
      rw [List.foldl_cons, foldl_endDischarge_ne l _ i hl]
      simpa using endDischarge_owner s i i

theorem setDischarge_stall_ne (s : State) (i j : StallIx) (o : Owner) (n : Nat) (h : j ≠ i) :
    (s.setDischarge i o n).stall j = s.stall j :=
  (handDischarge_ne _ i j _ h).trans (setStall_ne _ i j _ h)

theorem foldl_setDischarge_ne (o : Owner) : ∀ (ps : List (StallIx × Nat)) (s : State) (i : StallIx),
    (∀ p ∈ ps, p.1 ≠ i) → (ps.foldl (fun v p => v.setDischarge p.1 o p.2) s).stall i = s.stall i
  | [], _, _, _ => rfl
  | p :: ps, s, i, h => by
    obtain ⟨hp, hps⟩ := List.forall_mem_cons.1 h
    rw [List.foldl_cons, foldl_setDischarge_ne o ps _ i hps, setDischarge_stall_ne s p.1 i o p.2 hp.symm]

/-- Of the stalls handed a discharge in turn, each keeps the owner and the discharge it took. -/
theorem foldl_setDischarge_owner (o : Owner) (ps : List (StallIx × Nat)) (s : State) (p : StallIx × Nat)
    (nd : (ps.map (·.1)).Nodup) (h : p ∈ ps) :
    ((ps.foldl (fun v p => v.setDischarge p.1 o p.2) s).stall p.1).owner = some o ∧
      ((ps.foldl (fun v p => v.setDischarge p.1 o p.2) s).stall p.1).discharge = p.2 := by
  induction ps generalizing s with
  | nil => cases h
  | cons q ps ih =>
    obtain ⟨hq, nd⟩ := List.nodup_cons.1 nd
    obtain rfl | h := List.mem_cons.1 h
    · rw [List.foldl_cons, foldl_setDischarge_ne o ps _ p.1 fun r hr e => hq (List.mem_map.2 ⟨r, hr, e⟩)]
      obtain ⟨howner, hdis, -⟩ := setDischarge_owner s p.1 p.1 o p.2
      simpa using And.intro howner hdis
    · rw [List.foldl_cons]
      exact ih _ nd h

/-- A stall placed an amount takes the owner and that discharge (R130). -/
theorem applySpread_placed (s : State) (o : Owner) {ps : List (StallIx × Nat)} (nd : (ps.map (·.1)).Nodup)
    {i : StallIx} {kw : Nat} (h : (i, kw) ∈ ps) (pos : 0 < kw) :
    ((s.applySpread o ps).stall i).owner = some o ∧ ((s.applySpread o ps).stall i).discharge = kw := by
  rw [applySpread_eq s o ps nd]
  by_cases stands : (s.stall i).owner = some o ∧ (s.stall i).discharge = kw
  · rw [foldl_setDischarge_ne, foldl_endDischarge_ne]
    · exact stands
    · intro loses
      have := (Bool.and_eq_true_iff.1 (List.mem_filter.1 loses).2).2
      have := List.all_eq_true.1 this _ h
      simp only [bne_self_eq_false, Bool.false_or, beq_iff_eq] at this
      omega
    · rintro p hp rfl
      obtain ⟨hp, changes⟩ := List.mem_filter.1 hp
      have amount : p.2 = kw := amount_unique nd hp h
      simp [stands, amount] at changes
  · refine foldl_setDischarge_owner o _ _ (i, kw) (nd.sublist (List.filter_sublist.map _)) (List.mem_filter.2 ⟨h, ?_⟩)
    simp only [Bool.and_eq_true, bne_iff_ne, Bool.not_eq_true', Bool.and_eq_false_iff, beq_eq_false_iff_ne]
    exact ⟨by omega, Decidable.not_and_iff_not_or_not.1 stands⟩

/-- A stall placed nothing: one of the owner's loses its discharge, any other stands (R130). -/
theorem applySpread_unplaced (s : State) (o : Owner) {ps : List (StallIx × Nat)} (nd : (ps.map (·.1)).Nodup)
    {i : StallIx} (h : ∀ kw, (i, kw) ∈ ps → kw = 0) :
    ((s.stall i).owner = some o →
      ((s.applySpread o ps).stall i).owner = none ∧ ((s.applySpread o ps).stall i).discharge = 0) ∧
    ((s.stall i).owner ≠ some o → (s.applySpread o ps).stall i = s.stall i) := by
  rw [applySpread_eq s o ps nd, foldl_setDischarge_ne]
  · refine ⟨fun ho => ?_, fun ho => ?_⟩
    · refine foldl_endDischarge_owner _ s i (List.mem_filter.2 ⟨List.mem_finRange i, ?_⟩)
      simp only [ho, beq_self_eq_true, Bool.true_and, List.all_eq_true, Bool.or_eq_true, bne_iff_ne, beq_iff_eq]
      rintro ⟨j, kw⟩ hp
      by_cases e : j = i
      · exact .inr (h kw (e ▸ hp))
      · exact .inl e
    · refine foldl_endDischarge_ne _ s i fun loses => ?_
      have := (Bool.and_eq_true_iff.1 (List.mem_filter.1 loses).2).1
      exact ho (beq_iff_eq.1 this)
  · rintro p hp rfl
    obtain ⟨hp, changes⟩ := List.mem_filter.1 hp
    simp [h p.2 hp] at changes

/-- Settles O51: the candidates, the invariant of the visit, and the spread's result stall by stall. -/
theorem spreadPlacesTheTarget : Obligations.SpreadPlacesTheTarget := by
  intro s o x
  have placing := placeAll_placing s o x (s.candidates o) [] x (.nil s o x)
  have nd := placements_nodup s o x
  refine ⟨fun i => ⟨fun h => ⟨lendableAt_of_none h, disCapacity_of_none h⟩,
      fun b h => ⟨lendableAt_of_some h, disCapacity_of_some h⟩⟩,
    fun ps d => ⟨rfl, otherOwnerSum_eq s o d, ?_⟩, mem_candidates s o, candidates_pairwise s o,
    placeAll_keys s o (s.candidates o) [] x, placing.inTurn, placing.cabinet, placing.total, rfl, ?_,
    (spread_inner s o x).keepsOutside, (spread_inner s o x).session, (spread_sameRoster s o x).buses,
    (spread_sameRoster s o x).deps, fun i kw => applySpread_placed s o nd, fun i => applySpread_unplaced s o nd⟩
  · exact congrArg (fun n => (s.eff d).cabinet - n - placedAt ps d) (otherOwnerSum_eq s o d)
  · refine (applySpread_eq s o _ nd).trans ?_
    simp only [setDischarge_eq]

end Sys2Proof.Machine
end

-- ==== Grid windows, arming and the end of an activation ====
section
/-! PROOF. The windows of the grid reserve and the arming evaluation (R138 to R140, R154), DISPATCH RELEASE (R142), and
the minutes, the limit and the end of an activation (R150 to R152). -/

namespace Sys2Proof.Machine

open Sys2Proof

/-! ## The minutes of a window (R138) -/

/-- The table of R138 in one line: a window that does not wrap, and one that wraps past midnight. -/
theorem WindowEntry.contains_iff (w : WindowEntry) (m : Nat) : w.contains m = true ↔
    (w.start ≤ m ∧ m < w.stop) ∨ (w.stop < w.start ∧ (w.start ≤ m ∨ m < w.stop)) := by
  unfold WindowEntry.contains
  split
  · simp only [Bool.and_eq_true, decide_eq_true_eq]
    omega
  · split
    · simp only [Bool.or_eq_true, decide_eq_true_eq]
      omega
    · simp only [Bool.false_eq_true, false_iff]
      omega

theorem WindowEntry.nonempty_iff (w : WindowEntry) : w.nonempty = true ↔ w.start ≠ w.stop := by
  simp [WindowEntry.nonempty]

/-- A window that is not empty contains its start. -/
theorem WindowEntry.contains_start {w : WindowEntry} (h : w.start ≠ w.stop) : w.contains w.start = true := by
  rw [WindowEntry.contains_iff]
  omega

/-- Two windows that share a minute share the start of one of them. -/
theorem WindowEntry.meets_iff (v w : WindowEntry) (hv : v.start < 1440) (hw : w.start < 1440) :
    v.meets w = true ↔ ∃ m, m < 1440 ∧ v.contains m = true ∧ w.contains m = true := by
  simp only [WindowEntry.meets, Bool.and_eq_true, Bool.or_eq_true, WindowEntry.nonempty_iff]
  constructor
  · rintro ⟨⟨nv, nw⟩, inV | inW⟩
    · exact ⟨w.start, hw, inV, WindowEntry.contains_start nw⟩
    · exact ⟨v.start, hv, WindowEntry.contains_start nv, inW⟩
  · rintro ⟨m, -, inV, inW⟩
    rw [WindowEntry.contains_iff] at inV inW
    simp only [WindowEntry.contains_iff]
    omega

/-! ## The commit check of windows (R172) -/

theorem firstBad_eq_none {n : Nat} (bad : Fin n → Bool) : firstBad bad = none ↔ ∀ i, bad i = false := by
  simp [firstBad]

/-- In a GRID set that passes the check no two enabled windows meet. -/
theorem GridSet.meets_of_offender_none {g : GridSet} (h : g.offender = none) {i j : WinIx} (lt : j < i)
    (hj : g.windows[j.val].enabled = true) (hi : g.windows[i.val].enabled = true) :
    g.windows[j.val].meets g.windows[i.val] = false := by
  unfold GridSet.offender at h
  split at h
  · cases h
  · rw [Option.map_eq_none_iff, firstBad_eq_none] at h
    have clear := h i
    rw [hi, Bool.true_and, List.any_eq_false] at clear
    simpa [lt, hj] using clear j (List.mem_finRange j)

/-- The windows of a set that passes the check, taken in order, contain no common minute. -/
theorem GridSet.apart_of_offender_none {g : GridSet} (h : g.offender = none)
    (range : ∀ i : WinIx, g.windows[i.val].start < 1440) {i j : WinIx} {m : Nat} (hm : m < 1440) (lt : j < i)
    (hj : g.windows[j.val].enabled = true) (hi : g.windows[i.val].enabled = true)
    (inJ : g.windows[j.val].contains m = true) : g.windows[i.val].contains m ≠ true := by
  intro inI
  have meet := (WindowEntry.meets_iff _ _ (range j) (range i)).2 ⟨m, hm, inJ, inI⟩
  rw [GridSet.meets_of_offender_none h lt hj hi] at meet
  cases meet

/-! ## The window in force (R138) -/

theorem windowInForce_of_unset {s : State} (h : s.clock = none ∨ s.grid.liveEmpty = true) :
    s.windowInForce = none := by
  obtain h | h := h
  · simp [State.windowInForce, State.curMinute, h]
  · unfold State.windowInForce
    split
    · rw [if_pos h]
    · rfl

theorem windowInForce_of_clock {s : State} {n : Nat} (hc : s.clock = some n) (he : s.grid.liveEmpty = false) :
    s.windowInForce =
      (List.finRange 16).find? fun i => (s.winEntry i).enabled && (s.winEntry i).contains (n / 60) := by
  simp [State.windowInForce, State.curMinute, hc, he]

/-- A window in force is enabled and contains the current minute. -/
theorem windowInForce_sound {s : State} {n : Nat} {i : WinIx} (hc : s.clock = some n)
    (h : s.windowInForce = some i) : s.grid.liveEmpty = false ∧ (s.winEntry i).enabled = true ∧
      (s.winEntry i).contains (n / 60) = true := by
  have live : s.grid.liveEmpty = false := by
    rw [← Bool.not_eq_true]
    intro empty
    rw [windowInForce_of_unset (.inr empty)] at h
    cases h
  rw [windowInForce_of_clock hc live] at h
  have found := List.find?_some h
  rw [Bool.and_eq_true] at found
  exact ⟨live, found⟩

/-- Where an enabled window contains the current minute, the lowest such is in force. -/
theorem windowInForce_least {s : State} {n : Nat} {i : WinIx} (hc : s.clock = some n)
    (live : s.grid.liveEmpty = false) (on : (s.winEntry i).enabled = true)
    (now : (s.winEntry i).contains (n / 60) = true) : ∃ j, s.windowInForce = some j ∧ j ≤ i := by
  rw [windowInForce_of_clock hc live]
  cases found : (List.finRange 16).find? fun i => (s.winEntry i).enabled && (s.winEntry i).contains (n / 60) with
  | none =>
    have missed := List.find?_eq_none.1 found i (List.mem_finRange i)
    rw [on, now] at missed
    exact absurd rfl missed
  | some j =>
    refine ⟨j, rfl, ?_⟩
    obtain ⟨-, below, above, cut, earlier⟩ := List.find?_eq_some_iff_append.1 found
    have ascending : (below ++ j :: above).Pairwise (· < ·) := cut ▸ List.pairwise_lt_finRange 16
    have listed : i ∈ below ++ j :: above := cut ▸ List.mem_finRange i
    obtain inBelow | rest := List.mem_append.1 listed
    · have missed := earlier i inBelow
      rw [on, now] at missed
      cases missed
    · obtain rfl | inAbove := List.mem_cons.1 rest
      · exact Fin.le_refl i
      · exact Fin.le_of_lt (List.rel_of_pairwise_cons (List.pairwise_append.1 ascending).2.1 inAbove)

/-! ## The arming evaluation (R139, R140) -/

theorem armingState_short {s : State} {i : WinIx}
    (h : s.pool < (s.winEntry i).holdback ∨ s.curtailable + s.dischargeable < (s.winEntry i).power) :
    s.armingState (some i) = .armedShort := if_pos h

theorem armingState_enough {s : State} {i : WinIx}
    (h : ¬ (s.pool < (s.winEntry i).holdback ∨ s.curtailable + s.dischargeable < (s.winEntry i).power)) :
    s.armingState (some i) = .armed := if_neg h

/-- The reserve with the state and the window that an arming evaluation found. -/
def State.armedAs (s : State) (new : ReserveState) (w : Option WinIx) : State :=
  { s with reserve := { s.reserve with state := new, window := w } }

/-- With neither the state nor the window changed, the evaluation does nothing. -/
theorem armingEval_stands {s : State} {w : Option WinIx} {new : ReserveState} (hw : s.windowInForce = w)
    (hn : s.armingState w = new) (h : s.reserve.state = new ∧ s.reserve.window = w) : s.armingEval = s := by
  subst hw hn
  exact if_pos ⟨h.1.symm, h.2.symm⟩

/-- Otherwise it stores both, raises their event, and hands the change on. -/
theorem armingEval_moves {s : State} {w : Option WinIx} {new : ReserveState} (hw : s.windowInForce = w)
    (hn : s.armingState w = new) (h : s.reserve.state ≠ new ∨ s.reserve.window ≠ w) : s.armingEval =
      (((s.armedAs new w).armingEvent s.reserve.state s.reserve.window w new).examineStorage).testHoldback := by
  subst hw hn
  refine if_neg fun same => ?_
  obtain ⟨state, window⟩ := same
  exact h.elim (fun c => c state.symm) (fun c => c window.symm)

/-- RESERVE_DISARMED is raised on leaving ARMED or ARMED_SHORT. -/
theorem armingEvent_disarmed (s : State) {old : ReserveState} (h : old = .armed ∨ old = .armedShort)
    (oldWin w : Option WinIx) : s.armingEvent old oldWin w .disarmed =
      s.raise .reserveDisarmed (.reserve ((oldWin.map (·.val)).getD 0)) 0 := if_pos h

theorem armingEvent_recovered (s : State) (oldWin w : Option WinIx) :
    s.armingEvent .recovery oldWin w .disarmed = s := rfl

/-- In the states in which the reserve is not taken, time and a GRID swap make the arming evaluation (R139, R154). -/
theorem arming_of_idle {s : State}
    (h : s.reserve.state = .disarmed ∨ s.reserve.state = .armed ∨ s.reserve.state = .armedShort) :
    s.gridSwapped = s.armingEval ∧ s.reserveTime = s.armingEval := by
  obtain h | h | h := h <;> exact ⟨by simp [State.gridSwapped, h], by simp [State.reserveTime, h]⟩

theorem gridSwapped_of_taken {s : State} (h : s.reserve.state = .active ∨ s.reserve.state = .recovery) :
    s.gridSwapped = s := by
  obtain h | h := h <;> simp [State.gridSwapped, h]

theorem reserveTime_of_recovery {s : State} (h : s.reserve.state = .recovery) : s.reserveTime = s := by
  simp [State.reserveTime, h]

/-- While ACTIVE the time is held against the copied window (R151). -/
theorem reserveTime_of_active {s : State} {a : Activation} {n : Nat} (h : s.reserve.state = .active)
    (ha : s.reserve.act = some a) (hc : s.clock = some n) :
    s.reserveTime = if a.window.contains (n / 60) = true then s else s.endActivation .windowEnd := by
  simp [State.reserveTime, h, ha, State.minuteIn, State.curMinute, hc]

/-- Settles O18: the table of R138, the windows that meet, the window in force, and the arming evaluation by its
state and window. -/
theorem windowsContainMinutes : Obligations.WindowsContainMinutes := by
  refine ⟨fun w m => ⟨fun lt => ?_, fun gt => ?_, fun eq => ?_⟩, fun v w hv _ hw _ => WindowEntry.meets_iff v w hv hw,
    fun g range ok i j m hm hi hj inI inJ => ?_,
    fun s => ⟨windowInForce_of_unset, fun n i => windowInForce_sound, fun n i => windowInForce_least⟩, ?_⟩
  · rw [WindowEntry.contains_iff]; omega
  · rw [WindowEntry.contains_iff]; omega
  · rw [← Bool.not_eq_true, WindowEntry.contains_iff]; omega
  · have starts := fun k => (range k).1
    obtain lt | eq | gt := Nat.lt_trichotomy i.val j.val
    · exact absurd inJ (GridSet.apart_of_offender_none ok starts hm lt hi hj inI)
    · exact Fin.ext eq
    · exact absurd inI (GridSet.apart_of_offender_none ok starts hm gt hj hi inJ)
  intro s w pool lends able old
  have lent : ∀ i, lends i = if 0 < s.lendableAt i then s.disCapacity i else 0 := by
    intro i
    cases h : (s.stall i).bus with
    | none => simp [lends, h, lendableAt_of_none h]
    | some b => simp [lends, h, lendableAt_of_some h, disCapacity_of_some h]
  have capacity : able = s.curtailable + s.dischargeable := by
    simp only [able, lent, State.curtailable, State.dischargeable, stallsOf, List.map_cons, List.map_nil, List.sum_cons,
      List.sum_nil, Nat.add_zero]
  refine ⟨fun hw => ⟨armingEval_stands hw rfl, fun armed => ?_, fun recovery => ?_⟩, fun i hw => ⟨fun short => ?_,
    fun enough => ?_⟩, gridSwapped_of_taken, arming_of_idle, reserveTime_of_recovery, fun active a n ha hn =>
    ⟨fun inside => ?_, fun outside => ?_⟩⟩
  · have left : s.reserve.state ≠ .disarmed := by
      intro c
      obtain e | e := armed <;> exact nomatch c.symm.trans e
    rw [armingEval_moves (new := .disarmed) hw rfl (.inl left), armingEvent_disarmed _ armed]
    rfl
  · have left : s.reserve.state ≠ .disarmed := fun c => nomatch c.symm.trans recovery
    rw [armingEval_moves (new := .disarmed) hw rfl (.inl left), show s.reserve.state = .recovery from recovery,
      armingEvent_recovered]
    rfl
  · rw [capacity] at short
    rw [hw, capacity]
    refine ⟨armingEval_stands hw (armingState_short short), fun moved => ?_⟩
    rw [armingEval_moves hw (armingState_short short) moved]
    rfl
  · rw [capacity] at enough
    rw [hw]
    refine ⟨armingEval_stands hw (armingState_enough enough), fun moved => ?_⟩
    rw [armingEval_moves hw (armingState_enough enough) moved]
    rfl
  · rw [reserveTime_of_active active ha hn, if_pos inside]
  · rw [reserveTime_of_active active ha hn, if_neg (Bool.eq_false_iff.1 outside)]

/-! ## What returning stalls and ending discharges leave -/

/-- The reserve's record is as it was, no stall comes to have an owner that it had not, and a stall under ALLOCATOR
stays there (R113, R127). -/
structure Releases (s t : State) : Prop where
  reserve   : t.reserve = s.reserve
  owner     : ∀ i o, (t.stall i).owner = some o → (s.stall i).owner = some o
  allocator : ∀ i, (s.stall i).controller = .allocator → (t.stall i).controller = .allocator

theorem Releases.refl (s : State) : Releases s s := ⟨rfl, fun _ _ => id, fun _ => id⟩

theorem Releases.trans {s t u : State} (h : Releases s t) (k : Releases t u) : Releases s u where
  reserve := k.reserve.trans h.reserve
  owner i o p := h.owner i o (k.owner i o p)
  allocator i p := k.allocator i (h.allocator i p)

theorem Releases.each {α : Type} (f : State → α → State) (hf : ∀ s a, Releases s (f s a)) :
    ∀ (is : List α) (s : State), Releases s (s.each is f)
  | [], s => .refl s
  | a :: is, s => (hf s a).trans (Releases.each f hf is (f s a))

theorem raise_releases (s : State) (k : EventKind) (x : Subject) (p : Int) : Releases s (s.raise k x p) :=
  ⟨rfl, fun _ _ => id, fun _ => id⟩

theorem setStorage_releases (s : State) (x : StorageState) : Releases s (s.setStorage x) :=
  ⟨rfl, fun _ _ => id, fun _ => id⟩

@[simp] theorem recompute_reserve (s : State) (i : StallIx) (m : Bool) : (s.recompute i m).reserve = s.reserve := by
  unfold State.recompute
  dsimp only
  split <;> rfl

/-- A recompute moves no stall's controller (R115). -/
@[simp] theorem recompute_controller (s : State) (i j : StallIx) (m : Bool) :
    ((s.recompute i m).stall j).controller = (s.stall j).controller := by
  by_cases h : j = i
  · subst h
    unfold State.recompute
    dsimp only
    split
    · rfl
    · simp [State.post, State.modStall, State.stall, State.setStall]
  · rw [recompute_ne s i j m h]

/-- A stall returned is under ALLOCATOR (R152). -/
theorem reserveReturn_controller (s : State) (i j : StallIx) :
    ((s.reserveReturn i).stall j).controller = if i = j then .allocator else (s.stall j).controller := by
  unfold State.reserveReturn
  rw [recompute_controller, State.stall_modStall]
  split <;> rfl

theorem reserveReturn_releases (s : State) (i : StallIx) : Releases s (s.reserveReturn i) where
  reserve := recompute_reserve _ i true
  owner j o := by rw [(reserveReturn_sameOwners s i).owner]; exact id
  allocator j h := by
    rw [reserveReturn_controller]
    split
    · rfl
    · exact h

/-- A stall whose discharge ends is left under the controller it had, or under ALLOCATOR (R113). -/
theorem endDischarge_releases (s : State) (i : StallIx) : Releases s (s.endDischarge i) where
  reserve := recompute_reserve _ i _
  owner j o := by
    rw [(endDischarge_owner s i j).1]
    split
    · nofun
    · exact id
  allocator j h := by
    by_cases e : j = i
    · subst e
      unfold State.endDischarge State.handDischarge
      simp only [recompute_controller, State.stall_setStall, State.stall_modStall, if_true]
      cases (s.stall j).owner with
      | none => exact h
      | some o => cases o with
        | storage => rfl
        | reserve => exact h
    · rw [endDischarge_stall_ne s i j e]
      exact h

theorem endOwned_releases (s : State) (o : Owner) : Releases s (s.endOwned o) := by
  refine Releases.each _ (fun s i => ?_) allStalls s
  split
  · exact endDischarge_releases s i
  · exact .refl s

theorem examineStorage_releases (s : State) : Releases s s.examineStorage := by
  unfold State.examineStorage
  split
  · split
    · exact .refl s
    · exact setStorage_releases s _
    · exact ((endOwned_releases s _).trans (setStorage_releases _ _)).trans (raise_releases _ _ _ _)
  · split
    · exact setStorage_releases s _
    · exact .refl s

/-- Unless storage is SHAVING, an examination of its conditions moves no stall and no ramp ceiling (R132). -/
theorem examineStorage_of_not_shaving {s : State} (h : s.storage.state ≠ .shaving) :
    (∀ i, s.examineStorage.stall i = s.stall i) ∧ s.examineStorage.alloc = s.alloc := by
  unfold State.examineStorage
  split
  · split
    · exact ⟨fun _ => rfl, rfl⟩
    · exact ⟨fun _ => rfl, rfl⟩
    · next c => exact absurd c h
  · split <;> exact ⟨fun _ => rfl, rfl⟩

theorem each_reserveReturn_controller (is : List StallIx) (s : State) (i : StallIx) (h : i ∈ is) :
    ((s.each is State.reserveReturn).stall i).controller = .allocator := by
  induction is generalizing s with
  | nil => cases h
  | cons a is ih =>
    obtain rfl | h := List.mem_cons.1 h
    · refine (Releases.each _ reserveReturn_releases is (s.reserveReturn i)).allocator i ?_
      rw [reserveReturn_controller, if_pos rfl]
    · exact ih _ h

/-! ## The end of an activation (R152) -/

/-- The held stalls returned, the held list emptied, and every reserve discharge ended. -/
def State.released (s : State) : State :=
  ((s.each (s.reserve.held.map (·.1)) State.reserveReturn).setHeld []).endOwned .reserve

def State.setRamp (s : State) (n : Nat) : State := { s with alloc := { s.alloc with ramp := n } }

/-- The activation's record closed with a cause, in RECOVERY. -/
def State.closeActivation (s : State) (c : ActEnd) : State := { s with
  reserve := { s.reserve with state := .recovery, act := s.reserve.act.map fun a => { a with ended := some c } } }

/-- The reserve in RECOVERY, with the ramp ceiling at the charge in force, before storage is examined. -/
def State.recovered (s : State) (c : ActEnd) : State :=
  (s.released.setRamp (s.released.sumStalls (·.sp.charge))).closeActivation c

section frames

variable (s : State) (n : Nat) (c : ActEnd) (i : StallIx)

@[simp] theorem setRamp_reserve : (s.setRamp n).reserve = s.reserve := rfl
@[simp] theorem setRamp_storage : (s.setRamp n).storage = s.storage := rfl
@[simp] theorem setRamp_ramp : (s.setRamp n).alloc.ramp = n := rfl
@[simp] theorem setRamp_stall : (s.setRamp n).stall i = s.stall i := rfl
@[simp] theorem closeActivation_storage : (s.closeActivation c).storage = s.storage := rfl
@[simp] theorem closeActivation_alloc : (s.closeActivation c).alloc = s.alloc := rfl
@[simp] theorem closeActivation_stall : (s.closeActivation c).stall i = s.stall i := rfl
@[simp] theorem closeActivation_reserve : (s.closeActivation c).reserve = { s.reserve with
    state := .recovery, act := s.reserve.act.map fun a => { a with ended := some c } } := rfl

end frames

/-- After `recovered`, the end of an activation examines storage, and then raises its event alone. -/
theorem endActivation_fields (s : State) (c : ActEnd) : let u := (s.recovered c).examineStorage
    (s.endActivation c).reserve = u.reserve ∧ (s.endActivation c).alloc = u.alloc ∧
      ∀ i, (s.endActivation c).stall i = u.stall i := by
  intro u
  unfold State.endActivation
  extract_lets held s1 s2 ramp s3 s4
  have hs2 : s2 = s.released := rfl
  clear_value s2
  have hs3 : s3 = s2.setRamp (s2.sumStalls (·.sp.charge)) := by unfold State.setRamp; rfl
  clear_value s3
  have hs4 : s4 = (s3.closeActivation c).examineStorage := rfl
  have last : s4 = u := by rw [hs4, hs3, hs2]; rfl
  clear_value s4 u
  subst last
  split <;> exact ⟨rfl, rfl, fun _ => rfl⟩

theorem setHeld_reserve (s : State) (h : List (StallIx × Nat)) :
    (s.setHeld h).reserve = { s.reserve with held := h } := rfl

theorem released_reserve (s : State) : s.released.reserve = { s.reserve with held := [] } := by
  unfold State.released
  rw [(endOwned_releases _ .reserve).reserve, setHeld_reserve, (Releases.each _ reserveReturn_releases _ s).reserve]

theorem released_storage (s : State) : s.released.storage = s.storage := by
  have returned := SameOwners.each _ reserveReturn_sameOwners (.refl s) (s.reserve.held.map (·.1))
  exact (endOwned_fewer _ .reserve).1.storage.trans ((setHeld_sameOwners _ []).storage.trans returned.storage)

theorem released_controller (s : State) {i : StallIx} (h : i ∈ s.reserve.held.map (·.1)) :
    (s.released.stall i).controller = .allocator :=
  (endOwned_releases _ .reserve).allocator i (each_reserveReturn_controller _ s i h)

theorem recovered_reserve (s : State) (c : ActEnd) : (s.recovered c).reserve = { s.reserve with
    state := .recovery, held := [], act := s.reserve.act.map fun a => { a with ended := some c } } := by
  rw [State.recovered, closeActivation_reserve, setRamp_reserve, released_reserve]

theorem recovered_stall (s : State) (c : ActEnd) (i : StallIx) : (s.recovered c).stall i = s.released.stall i := by
  rw [State.recovered, closeActivation_stall, setRamp_stall]

theorem recovered_storage (s : State) (c : ActEnd) : (s.recovered c).storage = s.storage := by
  rw [State.recovered, closeActivation_storage, setRamp_storage, released_storage]

/-- The ramp ceiling is the charge in force once the stalls are released (R152). -/
theorem recovered_ramp (s : State) (c : ActEnd) :
    (s.recovered c).alloc.ramp = (s.recovered c).sumStalls (·.sp.charge) := by
  have charge : (s.recovered c).sumStalls (·.sp.charge) = s.released.sumStalls (·.sp.charge) := by
    simp only [State.sumStalls, recovered_stall]
  rw [charge, State.recovered, closeActivation_alloc, setRamp_ramp]

/-- An ended activation leaves RECOVERY, an empty held list, and its record with the cause. -/
theorem endActivation_reserve (s : State) (c : ActEnd) : (s.endActivation c).reserve = { s.reserve with
    state := .recovery, held := [], act := s.reserve.act.map fun a => { a with ended := some c } } := by
  obtain ⟨reserve, -, -⟩ := endActivation_fields s c
  rw [reserve, (examineStorage_releases _).reserve, recovered_reserve]

/-- No reserve discharge stands after the end of an activation. -/
theorem endActivation_owner (s : State) (c : ActEnd) (i : StallIx) :
    ((s.endActivation c).stall i).owner ≠ some .reserve := by
  obtain ⟨-, -, stall⟩ := endActivation_fields s c
  rw [stall]
  intro owned
  have before := (examineStorage_releases _).owner i .reserve owned
  rw [recovered_stall] at before
  exact (endOwned_fewer _ .reserve).2 i before

/-- Each stall that was held is under ALLOCATOR after the end of an activation. -/
theorem endActivation_controller (s : State) (c : ActEnd) {i : StallIx} (h : i ∈ s.reserve.held.map (·.1)) :
    ((s.endActivation c).stall i).controller = .allocator := by
  obtain ⟨-, -, stall⟩ := endActivation_fields s c
  rw [stall]
  refine (examineStorage_releases _).allocator i ?_
  rw [recovered_stall]
  exact released_controller s h

/-- Unless an examination of storage ends a storage discharge, the ramp ceiling is the charge then in force. -/
theorem endActivation_ramp {s : State} (h : s.storage.state ≠ .shaving) (c : ActEnd) :
    (s.endActivation c).alloc.ramp = (s.endActivation c).sumStalls (·.sp.charge) := by
  obtain ⟨-, alloc, stall⟩ := endActivation_fields s c
  obtain ⟨stalls, ramp⟩ := examineStorage_of_not_shaving (s := s.recovered c) (by rwa [recovered_storage])
  rw [alloc, ramp, recovered_ramp]
  simp only [State.sumStalls, stall, stalls]

/-! ## DISPATCH frames (R55, R64) -/

/-- The meter line's receiver has taken a valid frame (R55). -/
def State.meterTaken (s : State) : State := s.modSite fun m => { m with rx := m.rx.afterValid }

/-- A frame to another destination is not taken. -/
theorem deliverMeter_elsewhere {s : State} {f : Frame} (hrx : s.site.rx.state ≠ .brk) (part : f.dest ≠ addrPart)
    (all : f.dest ≠ addrBroadcast) : s.deliverMeter f = s.meterTaken := by
  unfold State.deliverMeter
  rw [if_neg hrx]
  exact if_neg fun h => h.2.elim part all

/-- A DISPATCH frame from the meter to the part, or to all, is given its meaning. -/
theorem deliverMeter_dispatch {s : State} {dest : Byte} (hrx : s.site.rx.state ≠ .brk)
    (here : dest = addrPart ∨ dest = addrBroadcast) (tag : Byte) (body : List Byte) :
    s.deliverMeter ⟨dest, addrMeter, kDispatch, tag, body⟩ = s.meterTaken.dispatchFrame body := by
  unfold State.deliverMeter
  rw [if_neg hrx]
  exact if_pos ⟨rfl, here⟩

/-- A DISPATCH body that is not of 5 octets only counts an error (R64). -/
theorem dispatchFrame_of_length {body : List Byte} (h : body.length ≠ 5) (s : State) :
    s.dispatchFrame body = s.countMeterError := by
  unfold State.dispatchFrame
  split
  · exact absurd rfl h
  · rfl

theorem dispatchFrame_release (s : State) (a b c d : Byte) :
    s.dispatchFrame [2#8, a, b, c, d] = s.dispatchRelease (rd16 a b) := rfl

/-- DISPATCH RELEASE delivers its frame, action 2 at the head of its body. -/
theorem dispatchRelease_ends {s u : State} {dest tag : Byte} {rest : List Byte}
    (h : s.deliverMeter ⟨dest, addrMeter, kDispatch, tag, 2#8 :: rest⟩ = u) :
    Ends (.dispatchRelease dest tag rest) s u := by
  subst h
  rfl

/-! ## DISPATCH RELEASE (R142) -/

theorem dispatchRelease_of_active {s : State} {x : Activation} (h : s.reserve.state = .active)
    (hx : s.reserve.act = some x) (id : Nat) : s.dispatchRelease id =
      if x.requestId = some id then s.endActivation .release else s.refuseDispatch 3 := by
  simp [State.dispatchRelease, h, hx]

theorem dispatchRelease_of_not_active {s : State} (h : s.reserve.state ≠ .active) (id : Nat) :
    s.dispatchRelease id = s.refuseDispatch 4 := by
  unfold State.dispatchRelease
  split
  · next c _ => exact absurd c h
  · next c _ => exact absurd c h
  · rfl

/-- Settles O54: the frame's delivery, the three cases of R142, and what R152 leaves after the end. -/
theorem dispatchReleases : Obligations.DispatchReleases := by
  refine ⟨fun s dest tag rest hrx => ⟨fun part all => dispatchRelease_ends (deliverMeter_elsewhere hrx part all),
    fun here len => dispatchRelease_ends ?_⟩, fun s dest tag a b c d here hrx => ?_⟩
  · exact (deliverMeter_dispatch hrx here tag _).trans (dispatchFrame_of_length (by simpa using len) _)
  · intro id v refused
    have taken : ∀ u, v.dispatchRelease id = u → Ends (.dispatchRelease dest tag [a, b, c, d]) s u := fun u h =>
      dispatchRelease_ends ((deliverMeter_dispatch hrx here tag _).trans ((dispatchFrame_release _ a b c d).trans h))
    refine ⟨fun active x hx => ⟨fun own => ?_, fun other => taken _ ?_⟩, fun idle => taken _
      (dispatchRelease_of_not_active (s := v) idle id)⟩
    · have reserve := endActivation_reserve v .release
      refine ⟨v.endActivation .release, taken _ ?_, rfl, (endActivation_inner v .release).keepsOutside, ?_, ?_, ?_,
        endActivation_owner v .release, fun i held => endActivation_controller v .release ?_,
        fun calm => endActivation_ramp (s := v) calm .release⟩
      · rw [dispatchRelease_of_active (s := v) active hx, if_pos own]
      · rw [reserve]
      · rw [reserve]
      · rw [reserve, show v.reserve.act = some x from hx]
        rfl
      · obtain ⟨e, mem, eq⟩ := List.any_eq_true.1 held
        exact List.mem_map.2 ⟨e, mem, beq_iff_eq.1 eq⟩
    · rw [dispatchRelease_of_active (s := v) active hx, if_neg other]
      rfl

/-! ## The minutes and the limit of an activation (R150, R151) -/

theorem activationMinute_of_not_active {s : State} (h : s.reserve.state ≠ .active) : s.activationMinute = s := by
  unfold State.activationMinute
  split
  · next c _ => exact absurd c h
  · rfl

theorem activationLimit_of_not_active {s : State} (h : s.reserve.state ≠ .active) : s.activationLimit = s := by
  unfold State.activationLimit
  split
  · next c _ => exact absurd c h
  · rfl

theorem activationMinute_of_active {s : State} {x : Activation} (h : s.reserve.state = .active)
    (hx : s.reserve.act = some x) : s.activationMinute =
      if x.elapsed < x.limit then s.progress (60 * (x.elapsed / 60 + 1)) else s := by
  simp [State.activationMinute, h, hx]

theorem activationLimit_of_active {s : State} {x : Activation} (h : s.reserve.state = .active)
    (hx : s.reserve.act = some x) : s.activationLimit =
      (if x.elapsed < x.limit then s.progress x.limit else s).endActivation .limit := by
  simp [State.activationLimit, h, hx]

/-- A progress report records the elapsed seconds and the fleet power taken off (R150). -/
theorem progress_of_act {s : State} {x : Activation} (hx : s.reserve.act = some x) (n : Nat) : s.progress n =
    ({ s with reserve := { s.reserve with
      act := some { x with elapsed := n, delivered := some (x.baseline - s.fleetPower) } } } : State).raise
      .reserveProgress (.reserve x.windowIx.val) (x.baseline - s.fleetPower) := by
  simp [State.progress, State.modAct, hx]

theorem activationMinute_ends {s u : State} (h : s.activationMinute = u) : Ends .activationMinute s u := by
  subst h
  rfl

theorem activationLimit_ends {s u : State} (h : s.activationLimit = u) : Ends .activationLimit s u := by
  subst h
  rfl

/-- Settles O55: both commands by the reserve state and, while ACTIVE, by the elapsed seconds against the limit. -/
theorem activationMinutesAndLimit : Obligations.ActivationMinutesAndLimit := by
  intro s
  refine ⟨fun idle => ⟨activationMinute_ends (activationMinute_of_not_active idle),
      activationLimit_ends (activationLimit_of_not_active idle)⟩,
    fun active x hx reached => ⟨activationMinute_ends ?_, activationLimit_ends ?_⟩, fun active x hx before => ?_⟩
  · rw [activationMinute_of_active active hx]
    exact if_neg (Nat.not_lt.2 reached)
  · rw [activationLimit_of_active active hx]
    exact congrArg (State.endActivation · .limit) (if_neg (Nat.not_lt.2 reached))
  · have running : x.elapsed < x.limit := before
    have reported := progress_of_act hx x.limit
    refine ⟨activationMinute_ends ?_, (s.progress x.limit).endActivation .limit, activationLimit_ends ?_, ?_,
      ((progress_inner s _).trans (endActivation_inner _ .limit)).keepsOutside, ?_⟩
    · rw [activationMinute_of_active active hx, if_pos running, progress_of_act hx]
    · rw [activationLimit_of_active active hx, if_pos running]
    · rw [reported]
      rfl
    · rw [endActivation_reserve, reported]
      exact ⟨rfl, rfl, _, rfl, rfl, rfl, rfl, rfl⟩

end Sys2Proof.Machine
end
